-- ==== Sys2Proof/Word.lean ====
section
/-! DEFINITION. The word and byte types (spec/00_scope.md R6, R8). -/

namespace Sys2Proof

/-- A 32-bit pattern: a register, an address, an instruction word (R6, R8). -/
abbrev Word := BitVec 32

/-- An 8-bit byte (R6). -/
abbrev Byte := BitVec 8

end Sys2Proof
end

