-- ==== Sys2Proof/Config.lean ====
section
/-! DEFINITION. The open parameters of the hardware (spec/00_scope.md R7): what an implementation fixes. -/

namespace Sys2Proof

/-- The identifier of a CP15 register: the four coprocessor fields of an MRC or MCR word
(spec/10_state.md R41). -/
structure Cp15Id where
  opc1 : Fin 8
  crn : Fin 16
  crm : Fin 16
  opc2 : Fin 8
  deriving DecidableEq, Repr

/-- A run of mapped byte addresses, `base` to `base + size - 1`: one piece of the set `MAPPED` of the
reference bus (spec/20_memory.md R70). -/
structure Region where
  base : Nat
  size : Nat
  deriving DecidableEq, Repr

/-- What a read port of a bus answers (spec/20_memory.md R60): a value or MemoryFault; or, for memory
that nothing has written, no value at all (R313; DESIGN CHOICE, log 3, safe). -/
inductive BusAnswer (α : Type) where
  | memoryFault
  | unwritten
  | value (v : α)
  deriving DecidableEq, Repr, Inhabited

/-- A memory bus with contents of type `σ`: the six ports of R60, each answering every call. A read may
change the contents (R69 leaves side effects to the platform); a write answers the new contents,
`none` being MemoryFault. A bus is no part of the state: it is an argument of the operations. -/
structure Bus (σ : Type) where
  read8 : Word → σ → BusAnswer (Byte × σ)
  read16 : Word → σ → BusAnswer (BitVec 16 × σ)
  read32 : Word → σ → BusAnswer (Word × σ)
  write8 : Word → Byte → σ → Option σ
  write16 : Word → BitVec 16 → σ → Option σ
  write32 : Word → Word → σ → Option σ
  deriving Inhabited

/-- The parameter `Bus` (R7, D26) as plain data: the reference bus of R70, or a platform's own bus, by a
number (log 9). -/
inductive BusChoice where
  | reference
  | platform (n : Nat)
  deriving DecidableEq, Repr

/-- The platforms' buses. D26: "any bus that is total and answers value-or-fault may replace the
reference"; so nothing is known of them (log 9). Their contents are plain data of the platform's. -/
opaque Config.platformBus : Nat → Bus (List Nat)

/-- The open parameters of R7. The model holds them as plain data in the state, so that a statement
about every state is a statement about every choice of them; no step writes them. -/
structure Config where
  /-- `VEC_UNDEF`, the Undefined vector (R274). -/
  vecUndef : Word
  /-- `VEC_SWI`, the SoftwareInterrupt vector (R274). -/
  vecSwi : Word
  /-- `CP15_IDS` with `CP15_RESET`: each implemented identifier as the integer of R41, with the
  register's reset value, in rising order. -/
  cp15 : List (Nat × Word)
  /-- `CYC_INSN` (R142). -/
  cycInsn : Nat
  /-- `CYC_SKIP` (R142). -/
  cycSkip : Nat
  /-- `CYC_HALTED` (R142). -/
  cycHalted : Nat
  /-- `RESET_PC` (R46). -/
  resetPc : Word
  /-- `RESET_CPSR` (R46). -/
  resetCpsr : Word
  /-- `Bus` (R60). -/
  bus : BusChoice
  /-- `MAPPED`, the byte addresses the reference bus answers for (R70). -/
  mapped : List Region
  deriving DecidableEq, Repr

/-- The defaults of R7. 1666 and 1667 are the integers of the identifiers (0,13,0,2) and (0,13,0,3)
(R41). DESIGN CHOICE (log 4), unsafe: R7 gives `MAPPED` no default; here it is the whole address
space of R61. -/
def Config.default : Config where
  vecUndef := 0x00000004#32
  vecSwi := 0x00000008#32
  cp15 := [(1666, 0#32), (1667, 0#32)]
  cycInsn := 1
  cycSkip := 1
  cycHalted := 1
  resetPc := 0x00000000#32
  resetCpsr := 0x000000D3#32
  bus := .reference
  mapped := [{ base := 0, size := 0x100000000 }]

end Sys2Proof
end

