-- ==== Sys2Proof/Syntax.lean ====
section
/-! DEFINITION. The instructions, whole: one constructor of `Instr` per row of spec/opcode_table.json
(spec/30_encoding.md R92, R96 to R109). Fields an instruction ignores (R120) are kept, so that a word
and its instruction determine each other. -/

namespace Sys2Proof

/-- The condition field, `bits[31:28]` (R91; spec/40_step_and_condition.md R136), in the order of its
codes 0 to 15. -/
inductive Cond where
  | eq | ne | cs | cc | mi | pl | vs | vc | hi | ls | ge | lt | gt | le | al | nv
  deriving DecidableEq, Repr

/-- A general register number, 0 to 15 (R20, R21); 15 is the program counter. -/
abbrev Reg := Fin 16

/-- The `type` field of a shifted register operand (R97). -/
inductive ShiftType where
  | lsl | lsr | asr | ror
  deriving DecidableEq, Repr

/-- The addressing mode of a load or store (R103). -/
inductive Index where
  | offset | preIndexed | postIndexed
  deriving DecidableEq, Repr

/-- The fifteen data-processing opcodes (R99). -/
inductive DpOp where
  | and | eor | sub | rsb | add | adc | sbc | tst | teq | cmp | cmn | orr | mov | bic | mvn
  deriving DecidableEq, Repr

/-- The second operand of a data-processing instruction (R92, R96 to R98). -/
inductive Operand2 where
  | imm (rot : Fin 16) (imm8 : Byte)
  | regImm (rm : Reg) (type : ShiftType) (amount : Fin 32)
  | regReg (rm : Reg) (type : ShiftType) (rs : Reg)
  deriving DecidableEq, Repr

/-- An instruction: the Instruction Descriptor of R92 with one constructor per opcode-table row. In a
data-processing constructor the suffix names the operand form: `Imm` (format DPI, R96), `RegImm`
(DPR, R97), `RegReg` (DPRS, R98). -/
inductive Instr where
  | andImm (cond : Cond) (sf : Bool) (rn rd : Reg) (rot : Fin 16) (imm8 : Byte)
  | andRegImm (cond : Cond) (sf : Bool) (rn rd rm : Reg) (type : ShiftType) (amount : Fin 32)
  | andRegReg (cond : Cond) (sf : Bool) (rn rd rm : Reg) (type : ShiftType) (rs : Reg)
  | eorImm (cond : Cond) (sf : Bool) (rn rd : Reg) (rot : Fin 16) (imm8 : Byte)
  | eorRegImm (cond : Cond) (sf : Bool) (rn rd rm : Reg) (type : ShiftType) (amount : Fin 32)
  | eorRegReg (cond : Cond) (sf : Bool) (rn rd rm : Reg) (type : ShiftType) (rs : Reg)
  | subImm (cond : Cond) (sf : Bool) (rn rd : Reg) (rot : Fin 16) (imm8 : Byte)
  | subRegImm (cond : Cond) (sf : Bool) (rn rd rm : Reg) (type : ShiftType) (amount : Fin 32)
  | subRegReg (cond : Cond) (sf : Bool) (rn rd rm : Reg) (type : ShiftType) (rs : Reg)
  | rsbImm (cond : Cond) (sf : Bool) (rn rd : Reg) (rot : Fin 16) (imm8 : Byte)
  | rsbRegImm (cond : Cond) (sf : Bool) (rn rd rm : Reg) (type : ShiftType) (amount : Fin 32)
  | rsbRegReg (cond : Cond) (sf : Bool) (rn rd rm : Reg) (type : ShiftType) (rs : Reg)
  | addImm (cond : Cond) (sf : Bool) (rn rd : Reg) (rot : Fin 16) (imm8 : Byte)
  | addRegImm (cond : Cond) (sf : Bool) (rn rd rm : Reg) (type : ShiftType) (amount : Fin 32)
  | addRegReg (cond : Cond) (sf : Bool) (rn rd rm : Reg) (type : ShiftType) (rs : Reg)
  | adcImm (cond : Cond) (sf : Bool) (rn rd : Reg) (rot : Fin 16) (imm8 : Byte)
  | adcRegImm (cond : Cond) (sf : Bool) (rn rd rm : Reg) (type : ShiftType) (amount : Fin 32)
  | adcRegReg (cond : Cond) (sf : Bool) (rn rd rm : Reg) (type : ShiftType) (rs : Reg)
  | sbcImm (cond : Cond) (sf : Bool) (rn rd : Reg) (rot : Fin 16) (imm8 : Byte)
  | sbcRegImm (cond : Cond) (sf : Bool) (rn rd rm : Reg) (type : ShiftType) (amount : Fin 32)
  | sbcRegReg (cond : Cond) (sf : Bool) (rn rd rm : Reg) (type : ShiftType) (rs : Reg)
  | tstImm (cond : Cond) (rn rd : Reg) (rot : Fin 16) (imm8 : Byte)
  | tstRegImm (cond : Cond) (rn rd rm : Reg) (type : ShiftType) (amount : Fin 32)
  | tstRegReg (cond : Cond) (rn rd rm : Reg) (type : ShiftType) (rs : Reg)
  | teqImm (cond : Cond) (rn rd : Reg) (rot : Fin 16) (imm8 : Byte)
  | teqRegImm (cond : Cond) (rn rd rm : Reg) (type : ShiftType) (amount : Fin 32)
  | teqRegReg (cond : Cond) (rn rd rm : Reg) (type : ShiftType) (rs : Reg)
  | cmpImm (cond : Cond) (rn rd : Reg) (rot : Fin 16) (imm8 : Byte)
  | cmpRegImm (cond : Cond) (rn rd rm : Reg) (type : ShiftType) (amount : Fin 32)
  | cmpRegReg (cond : Cond) (rn rd rm : Reg) (type : ShiftType) (rs : Reg)
  | cmnImm (cond : Cond) (rn rd : Reg) (rot : Fin 16) (imm8 : Byte)
  | cmnRegImm (cond : Cond) (rn rd rm : Reg) (type : ShiftType) (amount : Fin 32)
  | cmnRegReg (cond : Cond) (rn rd rm : Reg) (type : ShiftType) (rs : Reg)
  | orrImm (cond : Cond) (sf : Bool) (rn rd : Reg) (rot : Fin 16) (imm8 : Byte)
  | orrRegImm (cond : Cond) (sf : Bool) (rn rd rm : Reg) (type : ShiftType) (amount : Fin 32)
  | orrRegReg (cond : Cond) (sf : Bool) (rn rd rm : Reg) (type : ShiftType) (rs : Reg)
  | movImm (cond : Cond) (sf : Bool) (rn rd : Reg) (rot : Fin 16) (imm8 : Byte)
  | movRegImm (cond : Cond) (sf : Bool) (rn rd rm : Reg) (type : ShiftType) (amount : Fin 32)
  | movRegReg (cond : Cond) (sf : Bool) (rn rd rm : Reg) (type : ShiftType) (rs : Reg)
  | bicImm (cond : Cond) (sf : Bool) (rn rd : Reg) (rot : Fin 16) (imm8 : Byte)
  | bicRegImm (cond : Cond) (sf : Bool) (rn rd rm : Reg) (type : ShiftType) (amount : Fin 32)
  | bicRegReg (cond : Cond) (sf : Bool) (rn rd rm : Reg) (type : ShiftType) (rs : Reg)
  | mvnImm (cond : Cond) (sf : Bool) (rn rd : Reg) (rot : Fin 16) (imm8 : Byte)
  | mvnRegImm (cond : Cond) (sf : Bool) (rn rd rm : Reg) (type : ShiftType) (amount : Fin 32)
  | mvnRegReg (cond : Cond) (sf : Bool) (rn rd rm : Reg) (type : ShiftType) (rs : Reg)
  | b (cond : Cond) (imm24 : BitVec 24)
  | bl (cond : Cond) (imm24 : BitVec 24)
  | bx (cond : Cond) (rm : Reg)
  | ldrOffset (cond : Cond) (up : Bool) (rn rd : Reg) (offset12 : BitVec 12)
  | ldrPre (cond : Cond) (up : Bool) (rn rd : Reg) (offset12 : BitVec 12)
  | ldrPost (cond : Cond) (up : Bool) (rn rd : Reg) (offset12 : BitVec 12)
  | strOffset (cond : Cond) (up : Bool) (rn rd : Reg) (offset12 : BitVec 12)
  | strPre (cond : Cond) (up : Bool) (rn rd : Reg) (offset12 : BitVec 12)
  | strPost (cond : Cond) (up : Bool) (rn rd : Reg) (offset12 : BitVec 12)
  | mul (cond : Cond) (sf : Bool) (rd rn rs rm : Reg)
  | mla (cond : Cond) (sf : Bool) (rd rn rs rm : Reg)
  | mrs (cond : Cond) (spsr : Bool) (rd : Reg)
  | msr (cond : Cond) (mask : BitVec 4) (rm : Reg)
  | swi (cond : Cond) (imm24 : BitVec 24)
  | wfi (cond : Cond)
  | mrc (cond : Cond) (id : Cp15Id) (rd : Reg)
  | mcr (cond : Cond) (id : Cp15Id) (rd : Reg)
  deriving DecidableEq, Repr

/-- The opcode uses its Rn field (R99): all but MOV and MVN. -/
def DpOp.usesRn : DpOp → Bool
  | .mov | .mvn => false
  | .and | .eor | .sub | .rsb | .add | .adc | .sbc | .tst | .teq | .cmp | .cmn | .orr | .bic => true

/-- The opcode is a test: it writes no register and its S bit is always 1 (R99). -/
def DpOp.isTest : DpOp → Bool
  | .tst | .teq | .cmp | .cmn => true
  | .and | .eor | .sub | .rsb | .add | .adc | .sbc | .orr | .mov | .bic | .mvn => false

/-- The data-processing instruction with this opcode, condition, S bit, registers and second operand:
the one constructor it stands for. A test opcode has no S field of its own. -/
def Instr.dataProc (op : DpOp) (c : Cond) (sf : Bool) (rn rd : Reg) (o : Operand2) : Instr :=
  match op, o with
  | .and, .imm rot imm8 => .andImm c sf rn rd rot imm8
  | .and, .regImm rm type amount => .andRegImm c sf rn rd rm type amount
  | .and, .regReg rm type rs => .andRegReg c sf rn rd rm type rs
  | .eor, .imm rot imm8 => .eorImm c sf rn rd rot imm8
  | .eor, .regImm rm type amount => .eorRegImm c sf rn rd rm type amount
  | .eor, .regReg rm type rs => .eorRegReg c sf rn rd rm type rs
  | .sub, .imm rot imm8 => .subImm c sf rn rd rot imm8
  | .sub, .regImm rm type amount => .subRegImm c sf rn rd rm type amount
  | .sub, .regReg rm type rs => .subRegReg c sf rn rd rm type rs
  | .rsb, .imm rot imm8 => .rsbImm c sf rn rd rot imm8
  | .rsb, .regImm rm type amount => .rsbRegImm c sf rn rd rm type amount
  | .rsb, .regReg rm type rs => .rsbRegReg c sf rn rd rm type rs
  | .add, .imm rot imm8 => .addImm c sf rn rd rot imm8
  | .add, .regImm rm type amount => .addRegImm c sf rn rd rm type amount
  | .add, .regReg rm type rs => .addRegReg c sf rn rd rm type rs
  | .adc, .imm rot imm8 => .adcImm c sf rn rd rot imm8
  | .adc, .regImm rm type amount => .adcRegImm c sf rn rd rm type amount
  | .adc, .regReg rm type rs => .adcRegReg c sf rn rd rm type rs
  | .sbc, .imm rot imm8 => .sbcImm c sf rn rd rot imm8
  | .sbc, .regImm rm type amount => .sbcRegImm c sf rn rd rm type amount
  | .sbc, .regReg rm type rs => .sbcRegReg c sf rn rd rm type rs
  | .tst, .imm rot imm8 => .tstImm c rn rd rot imm8
  | .tst, .regImm rm type amount => .tstRegImm c rn rd rm type amount
  | .tst, .regReg rm type rs => .tstRegReg c rn rd rm type rs
  | .teq, .imm rot imm8 => .teqImm c rn rd rot imm8
  | .teq, .regImm rm type amount => .teqRegImm c rn rd rm type amount
  | .teq, .regReg rm type rs => .teqRegReg c rn rd rm type rs
  | .cmp, .imm rot imm8 => .cmpImm c rn rd rot imm8
  | .cmp, .regImm rm type amount => .cmpRegImm c rn rd rm type amount
  | .cmp, .regReg rm type rs => .cmpRegReg c rn rd rm type rs
  | .cmn, .imm rot imm8 => .cmnImm c rn rd rot imm8
  | .cmn, .regImm rm type amount => .cmnRegImm c rn rd rm type amount
  | .cmn, .regReg rm type rs => .cmnRegReg c rn rd rm type rs
  | .orr, .imm rot imm8 => .orrImm c sf rn rd rot imm8
  | .orr, .regImm rm type amount => .orrRegImm c sf rn rd rm type amount
  | .orr, .regReg rm type rs => .orrRegReg c sf rn rd rm type rs
  | .mov, .imm rot imm8 => .movImm c sf rn rd rot imm8
  | .mov, .regImm rm type amount => .movRegImm c sf rn rd rm type amount
  | .mov, .regReg rm type rs => .movRegReg c sf rn rd rm type rs
  | .bic, .imm rot imm8 => .bicImm c sf rn rd rot imm8
  | .bic, .regImm rm type amount => .bicRegImm c sf rn rd rm type amount
  | .bic, .regReg rm type rs => .bicRegReg c sf rn rd rm type rs
  | .mvn, .imm rot imm8 => .mvnImm c sf rn rd rot imm8
  | .mvn, .regImm rm type amount => .mvnRegImm c sf rn rd rm type amount
  | .mvn, .regReg rm type rs => .mvnRegReg c sf rn rd rm type rs

/-- The LDR (`load`) or STR with this addressing mode. -/
def Instr.memXfer (load : Bool) (ix : Index) (c : Cond) (up : Bool) (rn rd : Reg) (offset12 : BitVec 12) : Instr :=
  match load, ix with
  | true, .offset => .ldrOffset c up rn rd offset12
  | true, .preIndexed => .ldrPre c up rn rd offset12
  | true, .postIndexed => .ldrPost c up rn rd offset12
  | false, .offset => .strOffset c up rn rd offset12
  | false, .preIndexed => .strPre c up rn rd offset12
  | false, .postIndexed => .strPost c up rn rd offset12

/-- The condition field of an instruction (R91). -/
def Instr.cond : Instr → Cond
  | .andImm c _ _ _ _ _ => c
  | .andRegImm c _ _ _ _ _ _ => c
  | .andRegReg c _ _ _ _ _ _ => c
  | .eorImm c _ _ _ _ _ => c
  | .eorRegImm c _ _ _ _ _ _ => c
  | .eorRegReg c _ _ _ _ _ _ => c
  | .subImm c _ _ _ _ _ => c
  | .subRegImm c _ _ _ _ _ _ => c
  | .subRegReg c _ _ _ _ _ _ => c
  | .rsbImm c _ _ _ _ _ => c
  | .rsbRegImm c _ _ _ _ _ _ => c
  | .rsbRegReg c _ _ _ _ _ _ => c
  | .addImm c _ _ _ _ _ => c
  | .addRegImm c _ _ _ _ _ _ => c
  | .addRegReg c _ _ _ _ _ _ => c
  | .adcImm c _ _ _ _ _ => c
  | .adcRegImm c _ _ _ _ _ _ => c
  | .adcRegReg c _ _ _ _ _ _ => c
  | .sbcImm c _ _ _ _ _ => c
  | .sbcRegImm c _ _ _ _ _ _ => c
  | .sbcRegReg c _ _ _ _ _ _ => c
  | .tstImm c _ _ _ _ => c
  | .tstRegImm c _ _ _ _ _ => c
  | .tstRegReg c _ _ _ _ _ => c
  | .teqImm c _ _ _ _ => c
  | .teqRegImm c _ _ _ _ _ => c
  | .teqRegReg c _ _ _ _ _ => c
  | .cmpImm c _ _ _ _ => c
  | .cmpRegImm c _ _ _ _ _ => c
  | .cmpRegReg c _ _ _ _ _ => c
  | .cmnImm c _ _ _ _ => c
  | .cmnRegImm c _ _ _ _ _ => c
  | .cmnRegReg c _ _ _ _ _ => c
  | .orrImm c _ _ _ _ _ => c
  | .orrRegImm c _ _ _ _ _ _ => c
  | .orrRegReg c _ _ _ _ _ _ => c
  | .movImm c _ _ _ _ _ => c
  | .movRegImm c _ _ _ _ _ _ => c
  | .movRegReg c _ _ _ _ _ _ => c
  | .bicImm c _ _ _ _ _ => c
  | .bicRegImm c _ _ _ _ _ _ => c
  | .bicRegReg c _ _ _ _ _ _ => c
  | .mvnImm c _ _ _ _ _ => c
  | .mvnRegImm c _ _ _ _ _ _ => c
  | .mvnRegReg c _ _ _ _ _ _ => c
  | .b c _ => c
  | .bl c _ => c
  | .bx c _ => c
  | .ldrOffset c _ _ _ _ => c
  | .ldrPre c _ _ _ _ => c
  | .ldrPost c _ _ _ _ => c
  | .strOffset c _ _ _ _ => c
  | .strPre c _ _ _ _ => c
  | .strPost c _ _ _ _ => c
  | .mul c _ _ _ _ _ => c
  | .mla c _ _ _ _ _ => c
  | .mrs c _ _ => c
  | .msr c _ _ => c
  | .swi c _ => c
  | .wfi c => c
  | .mrc c _ _ => c
  | .mcr c _ _ => c

end Sys2Proof
end

