-- ==== Sys2Proof/WellFormed.lean ====
section
/-! DEFINITION. The register exclusions of spec/30_encoding.md R119: the combinations a decoder never
produces. Every other combination of fields is an instruction. -/

namespace Sys2Proof

/-- Exclusion a: no r15 as Rm, Rs, a used Rn or a written Rd of a register-shifted operand. -/
def wfRegReg (op : DpOp) (rn rd rm rs : Reg) : Bool :=
  rm != 15 && rs != 15 && !(op.usesRn && rn == 15) && !(!op.isTest && rd == 15)

/-- Exclusions b and c: with base writeback, Rn differs from Rd and is not r15. -/
def wfWriteback (rn rd : Reg) : Bool := rn != rd && rn != 15

/-- No exclusion of R119 applies to the instruction. -/
def Instr.wf : Instr → Bool
  | .andImm _ _ _ _ _ _ => true
  | .andRegImm _ _ _ _ _ _ _ => true
  | .andRegReg _ _ rn rd rm _ rs => wfRegReg .and rn rd rm rs
  | .eorImm _ _ _ _ _ _ => true
  | .eorRegImm _ _ _ _ _ _ _ => true
  | .eorRegReg _ _ rn rd rm _ rs => wfRegReg .eor rn rd rm rs
  | .subImm _ _ _ _ _ _ => true
  | .subRegImm _ _ _ _ _ _ _ => true
  | .subRegReg _ _ rn rd rm _ rs => wfRegReg .sub rn rd rm rs
  | .rsbImm _ _ _ _ _ _ => true
  | .rsbRegImm _ _ _ _ _ _ _ => true
  | .rsbRegReg _ _ rn rd rm _ rs => wfRegReg .rsb rn rd rm rs
  | .addImm _ _ _ _ _ _ => true
  | .addRegImm _ _ _ _ _ _ _ => true
  | .addRegReg _ _ rn rd rm _ rs => wfRegReg .add rn rd rm rs
  | .adcImm _ _ _ _ _ _ => true
  | .adcRegImm _ _ _ _ _ _ _ => true
  | .adcRegReg _ _ rn rd rm _ rs => wfRegReg .adc rn rd rm rs
  | .sbcImm _ _ _ _ _ _ => true
  | .sbcRegImm _ _ _ _ _ _ _ => true
  | .sbcRegReg _ _ rn rd rm _ rs => wfRegReg .sbc rn rd rm rs
  | .tstImm _ _ _ _ _ => true
  | .tstRegImm _ _ _ _ _ _ => true
  | .tstRegReg _ rn rd rm _ rs => wfRegReg .tst rn rd rm rs
  | .teqImm _ _ _ _ _ => true
  | .teqRegImm _ _ _ _ _ _ => true
  | .teqRegReg _ rn rd rm _ rs => wfRegReg .teq rn rd rm rs
  | .cmpImm _ _ _ _ _ => true
  | .cmpRegImm _ _ _ _ _ _ => true
  | .cmpRegReg _ rn rd rm _ rs => wfRegReg .cmp rn rd rm rs
  | .cmnImm _ _ _ _ _ => true
  | .cmnRegImm _ _ _ _ _ _ => true
  | .cmnRegReg _ rn rd rm _ rs => wfRegReg .cmn rn rd rm rs
  | .orrImm _ _ _ _ _ _ => true
  | .orrRegImm _ _ _ _ _ _ _ => true
  | .orrRegReg _ _ rn rd rm _ rs => wfRegReg .orr rn rd rm rs
  | .movImm _ _ _ _ _ _ => true
  | .movRegImm _ _ _ _ _ _ _ => true
  | .movRegReg _ _ rn rd rm _ rs => wfRegReg .mov rn rd rm rs
  | .bicImm _ _ _ _ _ _ => true
  | .bicRegImm _ _ _ _ _ _ _ => true
  | .bicRegReg _ _ rn rd rm _ rs => wfRegReg .bic rn rd rm rs
  | .mvnImm _ _ _ _ _ _ => true
  | .mvnRegImm _ _ _ _ _ _ _ => true
  | .mvnRegReg _ _ rn rd rm _ rs => wfRegReg .mvn rn rd rm rs
  | .b _ _ => true
  | .bl _ _ => true
  | .bx _ _ => true
  | .ldrOffset _ _ _ _ _ => true
  | .ldrPre _ _ rn rd _ => wfWriteback rn rd
  | .ldrPost _ _ rn rd _ => wfWriteback rn rd
  | .strOffset _ _ _ _ _ => true
  | .strPre _ _ rn rd _ => wfWriteback rn rd
  | .strPost _ _ rn rd _ => wfWriteback rn rd
  | .mul _ _ rd _ rs rm => rd != 15 && rm != 15 && rs != 15
  | .mla _ _ rd rn rs rm => rd != 15 && rm != 15 && rs != 15 && rn != 15
  | .mrs _ _ rd => rd != 15
  | .msr _ _ rm => rm != 15
  | .swi _ _ => true
  | .wfi _ => true
  | .mrc _ _ rd => rd != 15
  | .mcr _ _ rd => rd != 15

end Sys2Proof
end

