-- ==== Sys2Proof/Decode.lean ====
section
/-! DEFINITION. The decoder (spec/30_encoding.md R90 to R121) and the encoder, with the bit-field and
byte-order helpers they use. -/

namespace Sys2Proof

/-! Bit fields (spec/00_scope.md R8): `n` is an instruction word read as a number. -/

/-- `n[lo + len - 1 : lo]`. -/
def fieldAt (n lo len : Nat) : Nat := n / 2 ^ lo % 2 ^ len

/-- `n[i] = 1`. -/
def bitAt (n i : Nat) : Bool := fieldAt n i 1 == 1

/-- The register number in the four bits from `lo`. -/
def regAt (n lo : Nat) : Reg := Fin.ofNat 16 (fieldAt n lo 4)

/-- The condition with this code (R91; spec/40_step_and_condition.md R136). -/
def Cond.ofCode : Nat → Cond
  | 0 => .eq
  | 1 => .ne
  | 2 => .cs
  | 3 => .cc
  | 4 => .mi
  | 5 => .pl
  | 6 => .vs
  | 7 => .vc
  | 8 => .hi
  | 9 => .ls
  | 10 => .ge
  | 11 => .lt
  | 12 => .gt
  | 13 => .le
  | 14 => .al
  | _ => .nv

/-- The code of a condition (R136). -/
def Cond.code : Cond → Nat
  | .eq => 0
  | .ne => 1
  | .cs => 2
  | .cc => 3
  | .mi => 4
  | .pl => 5
  | .vs => 6
  | .vc => 7
  | .hi => 8
  | .ls => 9
  | .ge => 10
  | .lt => 11
  | .gt => 12
  | .le => 13
  | .al => 14
  | .nv => 15

/-- The opcode with this code (R99); code 7 is RSC, which the subset does not have. -/
def DpOp.ofCode : Nat → Option DpOp
  | 0 => some .and
  | 1 => some .eor
  | 2 => some .sub
  | 3 => some .rsb
  | 4 => some .add
  | 5 => some .adc
  | 6 => some .sbc
  | 8 => some .tst
  | 9 => some .teq
  | 10 => some .cmp
  | 11 => some .cmn
  | 12 => some .orr
  | 13 => some .mov
  | 14 => some .bic
  | 15 => some .mvn
  | _ => none

/-- The code of an opcode (R99). -/
def DpOp.code : DpOp → Nat
  | .and => 0
  | .eor => 1
  | .sub => 2
  | .rsb => 3
  | .add => 4
  | .adc => 5
  | .sbc => 6
  | .tst => 8
  | .teq => 9
  | .cmp => 10
  | .cmn => 11
  | .orr => 12
  | .mov => 13
  | .bic => 14
  | .mvn => 15

/-- The shift type with this code (R97). -/
def ShiftType.ofCode : Nat → ShiftType
  | 0 => .lsl
  | 1 => .lsr
  | 2 => .asr
  | _ => .ror

/-- The code of a shift type (R97). -/
def ShiftType.code : ShiftType → Nat
  | .lsl => 0
  | .lsr => 1
  | .asr => 2
  | .ror => 3

/-- The condition field of a word (R91). -/
def condAt (n : Nat) : Cond := Cond.ofCode (fieldAt n 28 4)

/-- The second operand of a data-processing word (R96 to R98). -/
def operand2At (n : Nat) : Operand2 :=
  if bitAt n 25 then .imm (regAt n 8) (BitVec.ofNat 8 n)
  else if bitAt n 4 then .regReg (regAt n 0) (ShiftType.ofCode (fieldAt n 5 2)) (regAt n 8)
  else .regImm (regAt n 0) (ShiftType.ofCode (fieldAt n 5 2)) (Fin.ofNat 32 (fieldAt n 7 5))

/-- The addressing mode of a load or store word: bits P and W (R103). -/
def indexAt (n : Nat) : Index :=
  if bitAt n 24 then (if bitAt n 21 then .preIndexed else .offset) else .postIndexed

/-- The coprocessor register identifier of an MRC or MCR word (R107). -/
def cp15IdAt (n : Nat) : Cp15Id where
  opc1 := Fin.ofNat 8 (fieldAt n 21 3)
  crn := Fin.ofNat 16 (fieldAt n 16 4)
  crm := Fin.ofNat 16 (fieldAt n 0 4)
  opc2 := Fin.ofNat 8 (fieldAt n 5 3)

/-- The tests of R95 in their order, without the exclusions of R119. `none` is test 11. -/
def matchPattern (n : Nat) : Option Instr :=
  if fieldAt n 25 3 = 0b101 then
    some (if bitAt n 24 then .bl (condAt n) (BitVec.ofNat 24 n) else .b (condAt n) (BitVec.ofNat 24 n))
  else if fieldAt n 24 4 = 0b1111 then
    some (.swi (condAt n) (BitVec.ofNat 24 n))
  else if fieldAt n 24 4 = 0b1110 ∧ fieldAt n 4 1 = 1 ∧ fieldAt n 8 4 = 0b1111 then
    some (if bitAt n 20 then .mrc (condAt n) (cp15IdAt n) (regAt n 12)
      else .mcr (condAt n) (cp15IdAt n) (regAt n 12))
  else if fieldAt n 25 3 = 0b010 ∧ fieldAt n 22 1 = 0 ∧ ¬(fieldAt n 24 1 = 0 ∧ fieldAt n 21 1 = 1) then
    some (Instr.memXfer (bitAt n 20) (indexAt n) (condAt n) (bitAt n 23) (regAt n 16) (regAt n 12)
      (BitVec.ofNat 12 n))
  else if fieldAt n 0 28 = 0x320F003 then
    some (.wfi (condAt n))
  else if fieldAt n 4 24 = 0x12FFF1 then
    some (.bx (condAt n) (regAt n 0))
  else if fieldAt n 23 5 = 0b00010 ∧ fieldAt n 16 6 = 0b001111 ∧ fieldAt n 0 12 = 0 then
    some (.mrs (condAt n) (bitAt n 22) (regAt n 12))
  else if fieldAt n 20 8 = 0b00010010 ∧ fieldAt n 4 12 = 0xF00 then
    some (.msr (condAt n) (BitVec.ofNat 4 (fieldAt n 16 4)) (regAt n 0))
  else if fieldAt n 22 6 = 0 ∧ fieldAt n 4 4 = 0b1001 then
    some (if bitAt n 21 then .mla (condAt n) (bitAt n 20) (regAt n 16) (regAt n 12) (regAt n 8) (regAt n 0)
      else .mul (condAt n) (bitAt n 20) (regAt n 16) (regAt n 12) (regAt n 8) (regAt n 0))
  else if fieldAt n 26 2 = 0 ∧ ¬(fieldAt n 25 1 = 0 ∧ fieldAt n 7 1 = 1 ∧ fieldAt n 4 1 = 1)
      ∧ ¬(fieldAt n 23 2 = 0b10 ∧ fieldAt n 20 1 = 0) then
    (DpOp.ofCode (fieldAt n 21 4)).map fun op =>
      Instr.dataProc op (condAt n) (bitAt n 20) (regAt n 16) (regAt n 12) (operand2At n)
  else none

/-- Why a decoder answers no instruction. -/
inductive DecodeError where
  /-- The word maps to no descriptor, or an exclusion applies (R118, R119). -/
  | unsupportedEncoding
  /-- Fewer than four bytes are there to decode (R90). -/
  | truncated
  deriving DecidableEq, Repr

/-- The decoder of R93: a pure, total function of the word alone. -/
def decodeWord (w : Word) : Except DecodeError Instr :=
  match matchPattern w.toNat with
  | some i => if i.wf then .ok i else .error .unsupportedEncoding
  | none => .error .unsupportedEncoding

/-! Byte order (spec/20_memory.md R63): the byte at the lowest address is `bits[7:0]`. -/

/-- The four bytes of a word, lowest address first. -/
def wordBytes (w : Word) : List Byte :=
  [w.extractLsb' 0 8, w.extractLsb' 8 8, w.extractLsb' 16 8, w.extractLsb' 24 8]

/-- The word whose bytes, lowest address first, are these. -/
def wordOfBytes (b0 b1 b2 b3 : Byte) : Word := b3 ++ b2 ++ b1 ++ b0

/-- The decoder on bytes: the first four are the word, the rest is left over (R90, R63). -/
def decodeBytes : List Byte → Except DecodeError (Instr × List Byte)
  | b0 :: b1 :: b2 :: b3 :: rest =>
    match decodeWord (wordOfBytes b0 b1 b2 b3) with
    | .ok i => .ok (i, rest)
    | .error e => .error e
  | _ => .error .truncated

/-- The instruction the decoder reads from the word `w` of `nbits` bits, the bits above them zero. -/
def decodeTableWord (nbits w : Nat) : Option Instr :=
  match decodeBytes (wordBytes (BitVec.ofNat 32 (w % 2 ^ nbits))) with
  | .ok (i, _) => some i
  | .error _ => none

/-! The encoder, from the same formats (R96 to R109). -/

/-- A data-processing word (R96 to R98). -/
def encodeDataProc (op : DpOp) (c : Cond) (sf : Bool) (rn rd : Reg) (o : Operand2) : Nat :=
  c.code * 2 ^ 28 + op.code * 2 ^ 21 + sf.toNat * 2 ^ 20 + rn.val * 2 ^ 16 + rd.val * 2 ^ 12 +
    match o with
    | .imm rot imm8 => 2 ^ 25 + rot.val * 2 ^ 8 + imm8.toNat
    | .regImm rm type amount => amount.val * 2 ^ 7 + type.code * 2 ^ 5 + rm.val
    | .regReg rm type rs => rs.val * 2 ^ 8 + type.code * 2 ^ 5 + 2 ^ 4 + rm.val

/-- A load or store word (R103). -/
def encodeMemXfer (load : Bool) (ix : Index) (c : Cond) (up : Bool) (rn rd : Reg) (offset12 : BitVec 12) : Nat :=
  c.code * 2 ^ 28 + 0b010 * 2 ^ 25 + up.toNat * 2 ^ 23 + load.toNat * 2 ^ 20 + rn.val * 2 ^ 16 +
    rd.val * 2 ^ 12 + offset12.toNat +
    match ix with
    | .offset => 2 ^ 24
    | .preIndexed => 2 ^ 24 + 2 ^ 21
    | .postIndexed => 0

/-- A multiply word; `a` is the A bit (R104). -/
def encodeMultiply (a : Nat) (c : Cond) (sf : Bool) (rd rn rs rm : Reg) : Nat :=
  c.code * 2 ^ 28 + a * 2 ^ 21 + sf.toNat * 2 ^ 20 + rd.val * 2 ^ 16 + rn.val * 2 ^ 12 + rs.val * 2 ^ 8 +
    0b1001 * 2 ^ 4 + rm.val

/-- A coprocessor transfer word; `l` is the L bit (R107). -/
def encodeCoproc (l : Nat) (c : Cond) (id : Cp15Id) (rd : Reg) : Nat :=
  c.code * 2 ^ 28 + 0b1110 * 2 ^ 24 + id.opc1.val * 2 ^ 21 + l * 2 ^ 20 + id.crn.val * 2 ^ 16 +
    rd.val * 2 ^ 12 + 0b1111 * 2 ^ 8 + id.opc2.val * 2 ^ 5 + 2 ^ 4 + id.crm.val

/-- The word of an instruction, as a number. -/
def encodeNat : Instr → Nat
  | .andImm c sf rn rd rot imm8 => encodeDataProc .and c sf rn rd (.imm rot imm8)
  | .andRegImm c sf rn rd rm type amount => encodeDataProc .and c sf rn rd (.regImm rm type amount)
  | .andRegReg c sf rn rd rm type rs => encodeDataProc .and c sf rn rd (.regReg rm type rs)
  | .eorImm c sf rn rd rot imm8 => encodeDataProc .eor c sf rn rd (.imm rot imm8)
  | .eorRegImm c sf rn rd rm type amount => encodeDataProc .eor c sf rn rd (.regImm rm type amount)
  | .eorRegReg c sf rn rd rm type rs => encodeDataProc .eor c sf rn rd (.regReg rm type rs)
  | .subImm c sf rn rd rot imm8 => encodeDataProc .sub c sf rn rd (.imm rot imm8)
  | .subRegImm c sf rn rd rm type amount => encodeDataProc .sub c sf rn rd (.regImm rm type amount)
  | .subRegReg c sf rn rd rm type rs => encodeDataProc .sub c sf rn rd (.regReg rm type rs)
  | .rsbImm c sf rn rd rot imm8 => encodeDataProc .rsb c sf rn rd (.imm rot imm8)
  | .rsbRegImm c sf rn rd rm type amount => encodeDataProc .rsb c sf rn rd (.regImm rm type amount)
  | .rsbRegReg c sf rn rd rm type rs => encodeDataProc .rsb c sf rn rd (.regReg rm type rs)
  | .addImm c sf rn rd rot imm8 => encodeDataProc .add c sf rn rd (.imm rot imm8)
  | .addRegImm c sf rn rd rm type amount => encodeDataProc .add c sf rn rd (.regImm rm type amount)
  | .addRegReg c sf rn rd rm type rs => encodeDataProc .add c sf rn rd (.regReg rm type rs)
  | .adcImm c sf rn rd rot imm8 => encodeDataProc .adc c sf rn rd (.imm rot imm8)
  | .adcRegImm c sf rn rd rm type amount => encodeDataProc .adc c sf rn rd (.regImm rm type amount)
  | .adcRegReg c sf rn rd rm type rs => encodeDataProc .adc c sf rn rd (.regReg rm type rs)
  | .sbcImm c sf rn rd rot imm8 => encodeDataProc .sbc c sf rn rd (.imm rot imm8)
  | .sbcRegImm c sf rn rd rm type amount => encodeDataProc .sbc c sf rn rd (.regImm rm type amount)
  | .sbcRegReg c sf rn rd rm type rs => encodeDataProc .sbc c sf rn rd (.regReg rm type rs)
  | .tstImm c rn rd rot imm8 => encodeDataProc .tst c true rn rd (.imm rot imm8)
  | .tstRegImm c rn rd rm type amount => encodeDataProc .tst c true rn rd (.regImm rm type amount)
  | .tstRegReg c rn rd rm type rs => encodeDataProc .tst c true rn rd (.regReg rm type rs)
  | .teqImm c rn rd rot imm8 => encodeDataProc .teq c true rn rd (.imm rot imm8)
  | .teqRegImm c rn rd rm type amount => encodeDataProc .teq c true rn rd (.regImm rm type amount)
  | .teqRegReg c rn rd rm type rs => encodeDataProc .teq c true rn rd (.regReg rm type rs)
  | .cmpImm c rn rd rot imm8 => encodeDataProc .cmp c true rn rd (.imm rot imm8)
  | .cmpRegImm c rn rd rm type amount => encodeDataProc .cmp c true rn rd (.regImm rm type amount)
  | .cmpRegReg c rn rd rm type rs => encodeDataProc .cmp c true rn rd (.regReg rm type rs)
  | .cmnImm c rn rd rot imm8 => encodeDataProc .cmn c true rn rd (.imm rot imm8)
  | .cmnRegImm c rn rd rm type amount => encodeDataProc .cmn c true rn rd (.regImm rm type amount)
  | .cmnRegReg c rn rd rm type rs => encodeDataProc .cmn c true rn rd (.regReg rm type rs)
  | .orrImm c sf rn rd rot imm8 => encodeDataProc .orr c sf rn rd (.imm rot imm8)
  | .orrRegImm c sf rn rd rm type amount => encodeDataProc .orr c sf rn rd (.regImm rm type amount)
  | .orrRegReg c sf rn rd rm type rs => encodeDataProc .orr c sf rn rd (.regReg rm type rs)
  | .movImm c sf rn rd rot imm8 => encodeDataProc .mov c sf rn rd (.imm rot imm8)
  | .movRegImm c sf rn rd rm type amount => encodeDataProc .mov c sf rn rd (.regImm rm type amount)
  | .movRegReg c sf rn rd rm type rs => encodeDataProc .mov c sf rn rd (.regReg rm type rs)
  | .bicImm c sf rn rd rot imm8 => encodeDataProc .bic c sf rn rd (.imm rot imm8)
  | .bicRegImm c sf rn rd rm type amount => encodeDataProc .bic c sf rn rd (.regImm rm type amount)
  | .bicRegReg c sf rn rd rm type rs => encodeDataProc .bic c sf rn rd (.regReg rm type rs)
  | .mvnImm c sf rn rd rot imm8 => encodeDataProc .mvn c sf rn rd (.imm rot imm8)
  | .mvnRegImm c sf rn rd rm type amount => encodeDataProc .mvn c sf rn rd (.regImm rm type amount)
  | .mvnRegReg c sf rn rd rm type rs => encodeDataProc .mvn c sf rn rd (.regReg rm type rs)
  | .b c imm24 => c.code * 2 ^ 28 + 0b1010 * 2 ^ 24 + imm24.toNat
  | .bl c imm24 => c.code * 2 ^ 28 + 0b1011 * 2 ^ 24 + imm24.toNat
  | .bx c rm => c.code * 2 ^ 28 + 0x12FFF1 * 2 ^ 4 + rm.val
  | .ldrOffset c up rn rd offset12 => encodeMemXfer true .offset c up rn rd offset12
  | .ldrPre c up rn rd offset12 => encodeMemXfer true .preIndexed c up rn rd offset12
  | .ldrPost c up rn rd offset12 => encodeMemXfer true .postIndexed c up rn rd offset12
  | .strOffset c up rn rd offset12 => encodeMemXfer false .offset c up rn rd offset12
  | .strPre c up rn rd offset12 => encodeMemXfer false .preIndexed c up rn rd offset12
  | .strPost c up rn rd offset12 => encodeMemXfer false .postIndexed c up rn rd offset12
  | .mul c sf rd rn rs rm => encodeMultiply 0 c sf rd rn rs rm
  | .mla c sf rd rn rs rm => encodeMultiply 1 c sf rd rn rs rm
  | .mrs c spsr rd => c.code * 2 ^ 28 + 0b00010 * 2 ^ 23 + spsr.toNat * 2 ^ 22 + 0b1111 * 2 ^ 16 + rd.val * 2 ^ 12
  | .msr c mask rm => c.code * 2 ^ 28 + 0b00010010 * 2 ^ 20 + mask.toNat * 2 ^ 16 + 0xF00 * 2 ^ 4 + rm.val
  | .swi c imm24 => c.code * 2 ^ 28 + 0b1111 * 2 ^ 24 + imm24.toNat
  | .wfi c => c.code * 2 ^ 28 + 0x320F003
  | .mrc c id rd => encodeCoproc 1 c id rd
  | .mcr c id rd => encodeCoproc 0 c id rd

/-- The word of an instruction. -/
def encode (i : Instr) : Word := BitVec.ofNat 32 (encodeNat i)

end Sys2Proof
end

