-- ==== Sys2Proof/Machine/State.lean ====
section
/-! DEFINITION. The machine's state as plain data (spec/10_state.md R20 and INVENTORY.md), the reasons a
step can stop, and the state after reset (R46). -/

namespace Sys2Proof.Machine

/-- The three implemented modes (R32, R287). -/
inductive Mode where
  | user | supervisor | undefined
  deriving DecidableEq, Repr

/-- The run state between steps (R42). Trapped is never seen between steps (R43). -/
inductive RunState where
  | running | halted
  deriving DecidableEq, Repr

/-- The two trap kinds (R271). -/
inductive TrapKind where
  | undefined | softwareInterrupt
  deriving DecidableEq, Repr

/-- The kind of a bus access, as a MemoryFault reports it (R66). -/
inductive AccessKind where
  | fetch | load | store
  deriving DecidableEq, Repr

/-- The Exception Record a step hands to its caller when it took a trap (R272). -/
structure ExceptionRecord where
  kind : TrapKind
  returnAddress : Word
  targetMode : Mode
  deriving DecidableEq, Repr

/-- The service-call record of an SWI step (R296): the SWI number and sixteen register values. -/
structure ServiceCall where
  number : BitVec 24
  regs : List Word
  deriving DecidableEq, Repr

/-- What a completed step returns to its caller (R10, R142, R272, R296). -/
structure StepOutput where
  cycles : Nat
  record : Option ExceptionRecord
  service : Option ServiceCall
  deriving DecidableEq, Repr

/-- Why a step ended in `Err(Defect)` (R284). -/
inductive DefectReason where
  /-- MSR in a privileged mode with mask bit c and an unimplemented mode value (R245, R284 a). -/
  | msrMode
  /-- An exception return through an SPSR that holds an unimplemented mode value (R279, R284 b). -/
  | spsrMode
  /-- MRS of the SPSR in User mode, which has none (R243, R284 c). -/
  | noSpsr
  /-- The current mode field is none of the three encodings: "an unbanked mode reached" (R284). No
  run from reset reaches such a state (R33; log 8). -/
  | unbankedMode
  deriving DecidableEq, Repr

/-- Why a step stopped. A fault leaves the machine exactly as before the step (R143), so it carries no
state. All of these are safe: the model goes no further than the spec lets it. -/
inductive Fault where
  /-- Raised by a fetch, LDR or STR to which the bus answers MemoryFault, on the reference bus for a
  misaligned or unmapped address: `Err(MemoryFault)` with the access kind, its width in bytes and its
  address (R66, R70). Safe. -/
  | memoryFault (kind : AccessKind) (width : Nat) (address : Word)
  /-- Raised by a fetch or LDR of memory that nothing has written, on the reference bus a mapped byte
  that is not listed. R313 and U2 let a model fault that read without naming the error: a fault of
  its own name is the model's choice (DESIGN CHOICE, log 3, safe), and so is its class (log 23). -/
  | unwrittenMemory (kind : AccessKind) (width : Nat) (address : Word)
  /-- Raised by MRC and MCR for an identifier outside `CP15_IDS` (R261, R262). Safe. -/
  | unsupportedCoprocessorRegister (id : Cp15Id)
  /-- Raised by MSR, the exception return, MRS of the SPSR, or an unbanked mode: `Err(Defect)`
  (R284). Safe. -/
  | defect (reason : DefectReason)
  deriving DecidableEq, Repr

/-- Why the model gives an instruction no meaning. -/
inductive Refusal where
  /-- Raised by `exec`'s arm of an instruction that has no meaning yet; no arm raises it now. Safe. -/
  | notModelled (mnemonic : String)
  deriving DecidableEq, Repr

/-- The three copies of a banked register (R22). -/
structure Banked where
  usr : Word
  svc : Word
  und : Word
  deriving DecidableEq, Repr

/-- What stands behind the bus: the bytes of the reference bus (R70), and the contents of a platform's
own bus (log 9). No bus touches the other's part. -/
structure BusContents where
  mem : List Host.Cell
  platform : List Nat
  deriving DecidableEq, Repr

/-- The machine's state: every element of R20, the reference bus's bytes (R70), and the model's own
fields `platform`, `irqPending`, `out` and `cfg` (INVENTORY.md, State). -/
structure State where
  /-- `r[0]` to `r[12]` (R21). -/
  r : Vector Word 13
  /-- The three copies of r13 (R22). -/
  r13 : Banked
  /-- The three copies of r14 (R22). -/
  r14 : Banked
  /-- The address of the instruction a step fetches (R27). -/
  pc : Word
  /-- The status register (R30, R31). -/
  cpsr : Word
  /-- `spsr[Supervisor]` (R38). -/
  spsrSvc : Word
  /-- `spsr[Undefined]` (R38). -/
  spsrUnd : Word
  /-- The coprocessor bank, keyed by the integer of R41 in rising order (R40). -/
  cp15 : List (Nat × Word)
  /-- Running or Halted (R42). -/
  run : RunState
  /-- The bytes of the reference bus: addresses strictly rising; a mapped address not listed holds
  no value yet (R70, R313; log 3). -/
  mem : List Host.Cell
  /-- The contents of a platform's own bus: plain data that only that bus reads and writes (R60, D26;
  log 9). The reference bus leaves it alone. -/
  platform : List Nat
  /-- The level of the interrupt-pending input (R49): an input of each step, not a latch (log 6). -/
  irqPending : Bool
  /-- What the last step returned (R10): an output, not state of the core (R44; log 7). -/
  out : StepOutput
  /-- The open parameters (R7); no step writes them (log 5). -/
  cfg : Config
  deriving DecidableEq, Repr

/-- The values reset leaves unspecified (R46): an argument of the reset operation. -/
structure ResetDraw where
  r : Vector Word 13
  r13 : Banked
  r14 : Banked
  spsrSvc : Word
  spsrUnd : Word
  deriving DecidableEq, Repr

/-- What no step has returned yet. DESIGN CHOICE (log 7), unsafe: nothing reads it before a step. -/
def StepOutput.initial : StepOutput := { cycles := 0, record := none, service := none }

/-- DESIGN CHOICE (log 1), unsafe: the one value `State.reset` gives each general register that R46
leaves unspecified; not zero, which R46 and R313 forbid a model to assume. -/
def unspecifiedRegister : Word := 0xA5A5A510#32

/-- DESIGN CHOICE (log 2), unsafe: the one value `State.reset` gives each SPSR; its bits 27 to 8 are
0 as R46 says, its mode is User. -/
def unspecifiedSpsr : Word := 0x00000010#32

/-- The named draw of `State.reset` (log 1, log 2). -/
def ResetDraw.named : ResetDraw where
  r := Vector.replicate 13 unspecifiedRegister
  r13 := { usr := unspecifiedRegister, svc := unspecifiedRegister, und := unspecifiedRegister }
  r14 := { usr := unspecifiedRegister, svc := unspecifiedRegister, und := unspecifiedRegister }
  spsrSvc := unspecifiedSpsr
  spsrUnd := unspecifiedSpsr

/-- The state after reset with given parameters, unspecified values, contents behind the bus and input
level (R46, R312): reset touches no memory. -/
def State.resetWith (cfg : Config) (d : ResetDraw) (contents : BusContents) (irq : Bool) : State where
  r := d.r
  r13 := d.r13
  r14 := d.r14
  pc := cfg.resetPc
  cpsr := cfg.resetCpsr
  spsrSvc := d.spsrSvc
  spsrUnd := d.spsrUnd
  cp15 := cfg.cp15
  run := .running
  mem := contents.mem
  platform := contents.platform
  irqPending := irq
  out := StepOutput.initial
  cfg := cfg

/-- The machine right after reset with the default parameters (R7, R46), nothing loaded, the
interrupt-pending input low (DESIGN CHOICE, log 6, unsafe). -/
def State.reset : State :=
  State.resetWith Config.default ResetDraw.named { mem := [], platform := [] } false

end Sys2Proof.Machine
end

