-- ==== Sys2Proof/Machine/Flags.lean ====
section
/-! DEFINITION. The status register's bits and mode field (spec/10_state.md R31, R32), the condition test
(spec/40_step_and_condition.md R136), the adder and the flag rules (spec/41_data_processing.md R158,
R160; spec/44_multiply.md R231). -/

namespace Sys2Proof.Machine

/-- `cpsr.N` (R31). -/
def flagN (p : Word) : Bool := p.getLsbD 31

/-- `cpsr.Z` (R31). -/
def flagZ (p : Word) : Bool := p.getLsbD 30

/-- `cpsr.C` (R31). -/
def flagC (p : Word) : Bool := p.getLsbD 29

/-- `cpsr.V` (R31). -/
def flagV (p : Word) : Bool := p.getLsbD 28

/-- `p` with bit `i` set to `b`. -/
def withBit (p : Word) (i : Nat) (b : Bool) : Word :=
  if b then p ||| (1#32 <<< i) else p &&& ~~~(1#32 <<< i)

/-- The mode field `p[4:0]` (R31). -/
def modeField (p : Word) : BitVec 5 := p.extractLsb' 0 5

/-- `p` with its mode field replaced. -/
def withModeField (p : Word) (m : BitVec 5) : Word := p.extractLsb' 5 27 ++ m

/-- The mode a five-bit value encodes, if it is one of the three (R32). -/
def Mode.ofBits (b : BitVec 5) : Option Mode :=
  if b = 0b10000#5 then some .user
  else if b = 0b10011#5 then some .supervisor
  else if b = 0b11011#5 then some .undefined
  else none

/-- The encoding of a mode (R32). -/
def Mode.bits : Mode → BitVec 5
  | .user => 0b10000#5
  | .supervisor => 0b10011#5
  | .undefined => 0b11011#5

/-- The mode is privileged (R32). -/
def Mode.privileged : Mode → Bool
  | .user => false
  | .supervisor => true
  | .undefined => true

/-- `ConditionPassed` (R136) on a status word. -/
def conditionPassed (c : Cond) (p : Word) : Bool :=
  match c with
  | .eq => flagZ p
  | .ne => !flagZ p
  | .cs => flagC p
  | .cc => !flagC p
  | .mi => flagN p
  | .pl => !flagN p
  | .vs => flagV p
  | .vc => !flagV p
  | .hi => flagC p && !flagZ p
  | .ls => !flagC p || flagZ p
  | .ge => flagN p == flagV p
  | .lt => flagN p != flagV p
  | .gt => !flagZ p && (flagN p == flagV p)
  | .le => flagZ p || (flagN p != flagV p)
  | .al => true
  | .nv => false

/-- What the ALU yields: the result and the C and V that go with it. -/
structure AluOut where
  result : Word
  carry : Bool
  overflow : Bool
  deriving DecidableEq, Repr

/-- `AddWithCarry` (R158), by its two unbounded sums. -/
def addWithCarry (a b : Word) (c : Bool) : AluOut :=
  let usum := a.toNat + b.toNat + c.toNat
  let ssum := a.toInt + b.toInt + (c.toNat : Int)
  let result := BitVec.ofNat 32 usum
  { result := result, carry := decide (2 ^ 32 ≤ usum), overflow := decide (ssum ≠ result.toInt) }

/-- N and Z from a result, C and V kept (R160, R231). -/
def withNZ (p : Word) (result : Word) : Word :=
  withBit (withBit p 31 (result.getLsbD 31)) 30 (decide (result = 0#32))

/-- N and Z from the result, C and V as the ALU yields them (R160). -/
def withNZCV (p : Word) (o : AluOut) : Word :=
  withBit (withBit (withNZ p o.result) 29 o.carry) 28 o.overflow

/-- The ALU (R163 to R177): the opcode's result, with C and V of the adder for an arithmetic opcode,
and the shifter carry-out `sc` and the old V for a logical one (R160). `p` is the status word before
the instruction. -/
def alu (op : DpOp) (a op2 : Word) (sc : Bool) (p : Word) : AluOut :=
  match op with
  | .and => { result := a &&& op2, carry := sc, overflow := flagV p }
  | .eor => { result := a ^^^ op2, carry := sc, overflow := flagV p }
  | .sub => addWithCarry a (~~~op2) true
  | .rsb => addWithCarry op2 (~~~a) true
  | .add => addWithCarry a op2 false
  | .adc => addWithCarry a op2 (flagC p)
  | .sbc => addWithCarry a (~~~op2) (flagC p)
  | .tst => { result := a &&& op2, carry := sc, overflow := flagV p }
  | .teq => { result := a ^^^ op2, carry := sc, overflow := flagV p }
  | .cmp => addWithCarry a (~~~op2) true
  | .cmn => addWithCarry a op2 false
  | .orr => { result := a ||| op2, carry := sc, overflow := flagV p }
  | .mov => { result := op2, carry := sc, overflow := flagV p }
  | .bic => { result := a &&& ~~~op2, carry := sc, overflow := flagV p }
  | .mvn => { result := ~~~op2, carry := sc, overflow := flagV p }

end Sys2Proof.Machine
end

