-- ==== Sys2Proof/Machine/Ops.lean ====
section
/-! DEFINITION. The named operations over memory, registers and the status words that every meaning is
written with: the bus (spec/20_memory.md R60) and the reference bus (R70), the register view (spec/10_state.md R24), the
coprocessor bank (R40), the program counter (R29), taking a trap (spec/60_exceptions.md R275) and the
return from one (R279). -/

namespace Sys2Proof.Machine

/-- What a meaning answers: a next state, a fault or a refusal (R10). -/
abbrev Result := Host.Outcome State Fault Refusal

/-! Keyed stores: lists of key and value, keys strictly rising. -/

/-- The value listed at a key. -/
def cellGet {α : Type} (k : Nat) : List (Nat × α) → Option α
  | [] => none
  | (a, v) :: t => if a = k then some v else cellGet k t

/-- The store with the value at a key replaced or listed, the keys still rising. -/
def cellSet {α : Type} (k : Nat) (x : α) : List (Nat × α) → List (Nat × α)
  | [] => [(k, x)]
  | (a, v) :: t =>
    if k < a then (k, x) :: (a, v) :: t
    else if a = k then (k, x) :: t
    else (a, v) :: cellSet k x t

/-- The keys of a store rise strictly: the canonical form, so that equal stores are equal lists. -/
abbrev keysRise {α : Type} (l : List (Nat × α)) : Prop := l.Pairwise fun x y => x.1 < y.1

/-! Memory: the reference bus of R70, the default of the parameter `Bus`. -/

/-- The canonical form of memory: addresses strictly rising, all inside the 32-bit space (R61). An
unlisted address holds no value, so no listed byte can equal what an unlisted address reads as. -/
abbrev Memory.wf (m : List Host.Cell) : Prop := keysRise m ∧ ∀ c ∈ m, c.1 < 2 ^ 32

/-- The byte the reference bus's memory holds at an address, if one has been written. -/
def memByte (s : State) (a : Nat) : Option Byte := cellGet a s.mem

/-- The address is in `MAPPED` (R70). -/
def mappedByte (cfg : Config) (a : Nat) : Bool :=
  cfg.mapped.any fun r => decide (r.base ≤ a) && decide (a < r.base + r.size)

/-- Every one of the `n` byte addresses from `a` is in `MAPPED`. -/
def mappedBytes (cfg : Config) (a n : Nat) : Bool :=
  (List.range n).all fun k => mappedByte cfg (a + k)

/-- The reference bus answers an access of `n` bytes at `a`: the address is a multiple of `n` and mapped
(R70). -/
def busAccepts (cfg : Config) (a : Word) (n : Nat) : Bool :=
  decide (a.toNat % n = 0) && mappedBytes cfg a.toNat n

/-- The two bytes from an address as a little-endian halfword, if both have been written (R70). -/
def memHalf (m : List Host.Cell) (a : Nat) : Option (BitVec 16) :=
  match cellGet a m, cellGet (a + 1) m with
  | some b0, some b1 => some (b1 ++ b0)
  | _, _ => none

/-- The four bytes from an address as a little-endian word, if all have been written (R63, R70). -/
def memWord (m : List Host.Cell) (a : Nat) : Option Word :=
  match cellGet a m, cellGet (a + 1) m, cellGet (a + 2) m, cellGet (a + 3) m with
  | some b0, some b1, some b2, some b3 => some (wordOfBytes b0 b1 b2 b3)
  | _, _, _, _ => none

/-- Memory with one byte stored. -/
def memSetByte (m : List Host.Cell) (a : Nat) (b : Byte) : List Host.Cell := cellSet a b m

/-- Memory with a halfword stored little-endian from an address (R70). -/
def memSetHalf (m : List Host.Cell) (a : Nat) (v : BitVec 16) : List Host.Cell :=
  memSetByte (memSetByte m a (v.extractLsb' 0 8)) (a + 1) (v.extractLsb' 8 8)

/-- Memory with a word stored little-endian from an address (R63, R70). -/
def memSetWord (m : List Host.Cell) (a : Nat) (v : Word) : List Host.Cell :=
  memSetByte (memSetByte (memSetByte (memSetByte m a (v.extractLsb' 0 8)) (a + 1) (v.extractLsb' 8 8))
    (a + 2) (v.extractLsb' 16 8)) (a + 3) (v.extractLsb' 24 8)

/-- A read of the reference bus: MemoryFault for a misaligned or unmapped address (R64, R70), no value
where a byte was never written (DESIGN CHOICE, log 3, safe; R313), else the value; the memory is as
before (R69). -/
def referenceRead {α : Type} (accepted : Bool) (held : Option α) (m : List Host.Cell) :
    BusAnswer (α × List Host.Cell) :=
  if accepted then
    match held with
    | some v => .value (v, m)
    | none => .unwritten
  else .memoryFault

/-- The reference bus (R70), with `MAPPED` from the parameters. -/
def referenceBus (cfg : Config) : Bus (List Host.Cell) where
  read8 a m := referenceRead (busAccepts cfg a 1) (cellGet a.toNat m) m
  read16 a m := referenceRead (busAccepts cfg a 2) (memHalf m a.toNat) m
  read32 a m := referenceRead (busAccepts cfg a 4) (memWord m a.toNat) m
  write8 a v m := if busAccepts cfg a 1 then some (memSetByte m a.toNat v) else none
  write16 a v m := if busAccepts cfg a 2 then some (memSetHalf m a.toNat v) else none
  write32 a v m := if busAccepts cfg a 4 then some (memSetWord m a.toNat v) else none

/-! The bus as an argument (R7, R60): every bus the core can be given works on the contents behind it. -/

/-- An answer with its value changed. -/
def mapAnswer {α β : Type} (f : α → β) : BusAnswer α → BusAnswer β
  | .memoryFault => .memoryFault
  | .unwritten => .unwritten
  | .value v => .value (f v)

/-- A bus that works on one part of the contents, as a bus that works on all of them. -/
def liftBus {σ : Type} (part : BusContents → σ) (put : BusContents → σ → BusContents) (bus : Bus σ) :
    Bus BusContents where
  read8 a c := mapAnswer (fun x => (x.1, put c x.2)) (bus.read8 a (part c))
  read16 a c := mapAnswer (fun x => (x.1, put c x.2)) (bus.read16 a (part c))
  read32 a c := mapAnswer (fun x => (x.1, put c x.2)) (bus.read32 a (part c))
  write8 a v c := (bus.write8 a v (part c)).map (put c)
  write16 a v c := (bus.write16 a v (part c)).map (put c)
  write32 a v c := (bus.write32 a v (part c)).map (put c)

/-- The bus that the parameters choose (R7): the reference bus, or the platform's own. -/
def busOf (cfg : Config) : Bus BusContents :=
  match cfg.bus with
  | .reference => liftBus (fun c => c.mem) (fun c m => { c with mem := m }) (referenceBus cfg)
  | .platform n => liftBus (fun c => c.platform) (fun c p => { c with platform := p }) (Config.platformBus n)

/-- What stands behind the bus. -/
def State.contents (s : State) : BusContents := { mem := s.mem, platform := s.platform }

/-- The state with other contents behind the bus. -/
def State.withContents (s : State) (c : BusContents) : State :=
  { s with mem := c.mem, platform := c.platform }

/-- `MemRead(a, 4)`: one call of the bus's `read32`, the address passed through unchanged (R9, R62,
R64); anything but a value ends the step (R66). -/
def memRead (bus : Bus BusContents) (k : AccessKind) (a : Word) (s : State) : Except Fault (Word × State) :=
  match bus.read32 a s.contents with
  | .value (v, c) => .ok (v, s.withContents c)
  | .unwritten => .error (.unwrittenMemory k 4 a)
  | .memoryFault => .error (.memoryFault k 4 a)

/-- `MemWrite(a, 4, v)`: one call of the bus's `write32` (R9, R62, R64, R66). -/
def memWrite (bus : Bus BusContents) (a : Word) (v : Word) (s : State) : Except Fault State :=
  match bus.write32 a v s.contents with
  | some c => .ok (s.withContents c)
  | none => .error (.memoryFault .store 4 a)

/-! The mode and the registers. -/

/-- The current mode: what `cpsr.M` encodes (R32). -/
def State.mode (s : State) : Option Mode := Mode.ofBits (modeField s.cpsr)

/-- Run a body in the current mode. A mode field that is none of the three encodings, which no run
reaches (R33), is a defect (R284; DEDUCED, log 8, safe). -/
def inMode (s : State) (body : Mode → Result) : Result :=
  match s.mode with
  | some m => body m
  | none => .fault (.defect .unbankedMode)

/-- The copy of a banked register that belongs to a mode (R24). -/
def Banked.get (b : Banked) : Mode → Word
  | .user => b.usr
  | .supervisor => b.svc
  | .undefined => b.und

/-- The banked register with one mode's copy replaced (R24). -/
def Banked.set (b : Banked) (m : Mode) (v : Word) : Banked :=
  match m with
  | .user => { b with usr := v }
  | .supervisor => { b with svc := v }
  | .undefined => { b with und := v }

/-- `x[i]` in the view of mode `m` (R24); r15 reads as `pc + 8` (R28). -/
def State.readReg (s : State) (m : Mode) (i : Reg) : Word :=
  if h : i.val < 13 then s.r[i.val]
  else if i = 13 then s.r13.get m
  else if i = 14 then s.r14.get m
  else s.pc + 8#32

/-- `x[i] <- v` in the view of mode `m` (R24); a write of r15 is a write of `pc`, no bit cleared (R29). -/
def State.writeReg (s : State) (m : Mode) (i : Reg) (v : Word) : State :=
  if h : i.val < 13 then { s with r := s.r.set i.val v }
  else if i = 13 then { s with r13 := s.r13.set m v }
  else if i = 14 then { s with r14 := s.r14.set m v }
  else { s with pc := v }

/-- `pc <- pc + 4`, modulo 2^32: the end of a step that does not redirect (R141). -/
def State.advance (s : State) : State := { s with pc := s.pc + 4#32 }

/-- `pc <- target`: a redirected step (R29, R141). -/
def State.redirect (s : State) (target : Word) : State := { s with pc := target }

/-- Write a destination register and finish the step's `pc`: a destination r15 redirects (R29 c, R141). -/
def State.writeDest (s : State) (m : Mode) (rd : Reg) (v : Word) : State :=
  if rd = 15 then s.redirect v else (s.writeReg m rd v).advance

/-- `spsr[m]`; User mode has none (R38). -/
def State.spsr (s : State) : Mode → Option Word
  | .user => none
  | .supervisor => some s.spsrSvc
  | .undefined => some s.spsrUnd

/-- `spsr[m] <- v`; User mode has none (R38). -/
def State.setSpsr (s : State) (m : Mode) (v : Word) : State :=
  match m with
  | .user => s
  | .supervisor => { s with spsrSvc := v }
  | .undefined => { s with spsrUnd := v }

/-! What a step returns. -/

/-- The state with the outputs of the step recorded (R10). -/
def State.report (s : State) (cycles : Nat) (record : Option ExceptionRecord) (service : Option ServiceCall) : State :=
  { s with out := { cycles := cycles, record := record, service := service } }

/-- An instruction completed: `Ok(CYC_INSN, none)` (R130, R142). -/
def State.completed (s : State) : State := s.report s.cfg.cycInsn none none

/-- An instruction was skipped: `pc` advances, `Ok(CYC_SKIP, none)`, nothing else (R133). -/
def State.skipped (s : State) : State := s.advance.report s.cfg.cycSkip none none

/-- Steps 4 and 5 of R130: the condition is tested once, on the flags of before the instruction
(R137); the body runs only if it passes. -/
def whenPassed (c : Cond) (s : State) (body : Result) : Result :=
  if conditionPassed c s.cpsr then body else .next s.skipped

/-! The coprocessor bank (R40, R41). -/

/-- The integer of an identifier (R41). -/
def cp15Number (id : Cp15Id) : Nat :=
  id.opc1.val * 2048 + id.crn.val * 128 + id.crm.val * 8 + id.opc2.val

/-- `cp15[id]`, if `id` is in `CP15_IDS` (R40, R260). A register the bank does not list, which no
run reaches, reads as its reset value (log 13). -/
def State.readCp15 (s : State) (id : Cp15Id) : Option Word :=
  match cellGet (cp15Number id) s.cfg.cp15 with
  | some reset => some ((cellGet (cp15Number id) s.cp15).getD reset)
  | none => none

/-- `cp15[id] <- v`, if `id` is in `CP15_IDS` (R40, R260). -/
def State.writeCp15 (s : State) (id : Cp15Id) (v : Word) : Option State :=
  match cellGet (cp15Number id) s.cfg.cp15 with
  | some _ => some { s with cp15 := cellSet (cp15Number id) v s.cp15 }
  | none => none

/-! Traps (spec/60_exceptions.md). -/

/-- The target mode of a trap (R271). -/
def TrapKind.targetMode : TrapKind → Mode
  | .undefined => .undefined
  | .softwareInterrupt => .supervisor

/-- The vector of a trap (R274). -/
def TrapKind.vector (k : TrapKind) (cfg : Config) : Word :=
  match k with
  | .undefined => cfg.vecUndef
  | .softwareInterrupt => cfg.vecSwi

/-- The return address of a trap: the undecodable word's own address, or the address after the SWI
(R276). -/
def TrapKind.returnAddress (k : TrapKind) (pc : Word) : Word :=
  match k with
  | .undefined => pc
  | .softwareInterrupt => pc + 4#32

/-- The Exception Record of a trap taken in a state (R272, R275). -/
def exceptionRecord (k : TrapKind) (s : State) : ExceptionRecord where
  kind := k
  returnAddress := k.returnAddress s.pc
  targetMode := k.targetMode

/-- `TrapEnter` (R275): the SPSR of the target mode takes the whole `cpsr`, r14 of the target mode the
return address, the mode becomes the target, I becomes 1 (R278), `pc` the vector. -/
def enterTrap (k : TrapKind) (s : State) : State :=
  let t := s.setSpsr k.targetMode s.cpsr
  { t with
    r14 := t.r14.set k.targetMode (k.returnAddress s.pc)
    cpsr := withBit (withModeField s.cpsr k.targetMode.bits) 7 true
    pc := k.vector s.cfg }

/-- `raise Undefined`: the entry, then `Ok(CYC_INSN, ExceptionRecord)` (R130 step 3, R275). -/
def raiseUndefined (s : State) : State :=
  (enterTrap .undefined s).report s.cfg.cycInsn (some (exceptionRecord .undefined s)) none

/-- The service-call record: the SWI number and the registers of the Supervisor view after entry, with
`pc` as the sixteenth (R296). `t` is the state after entry. -/
def serviceCall (number : BitVec 24) (t : State) : ServiceCall where
  number := number
  regs := t.r.toList ++ [t.r13.svc, t.r14.svc, t.pc]

/-- `raise SoftwareInterrupt(imm24)`: the entry, then `Ok(CYC_INSN, ExceptionRecord)` with the
service-call record (R248, R275, R296). -/
def raiseSoftwareInterrupt (imm24 : BitVec 24) (s : State) : State :=
  let t := enterTrap .softwareInterrupt s
  t.report s.cfg.cycInsn (some (exceptionRecord .softwareInterrupt s)) (some (serviceCall imm24 t))

/-- `ExceptionReturn` (R279) in mode `m`: `cpsr` takes the whole SPSR and `pc` the operand value; an
unimplemented mode in the SPSR is a defect. Only a privileged mode, which has an SPSR, comes here. -/
def exceptionReturn (m : Mode) (value : Word) (s : State) : Result :=
  match s.spsr m with
  | none => .fault (.defect .noSpsr)
  | some p =>
    match Mode.ofBits (modeField p) with
    | none => .fault (.defect .spsrMode)
    | some _ => .next (({ s with cpsr := p }.redirect value).completed)

end Sys2Proof.Machine
end

