-- ==== Sys2Proof/Machine/Operands.lean ====
section
/-! DEFINITION. The operand forms: the shifter operand of data processing (spec/41_data_processing.md
R151 to R154), the branch offset (spec/30_encoding.md R101) and the address unit of loads and stores
(spec/43_load_store.md R210, R211). -/

namespace Sys2Proof.Machine

/-- A shifted operand: the 32-bit value and the shifter carry-out (R151). -/
structure Shifted where
  value : Word
  carry : Bool
  deriving DecidableEq, Repr

/-- 32 copies of a bit: an arithmetic shift right by 32 or more (R153, R154). -/
def signFill (m : Word) : Word := if m.getLsbD 31 then 0xFFFFFFFF#32 else 0#32

/-- Form Imm (R152): the byte rotated right by `2 * rot`. -/
def shiftImm (c : Bool) (rot : Fin 16) (imm8 : Byte) : Shifted :=
  let v : Word := imm8.setWidth 32
  if rot.val = 0 then { value := v, carry := c }
  else
    let op2 := v.rotateRight (2 * rot.val)
    { value := op2, carry := op2.getLsbD 31 }

/-- Form RegImm (R153): amount 0 means 32 for LSR and ASR, and RRX for ROR. -/
def shiftByImm (c : Bool) (m : Word) (type : ShiftType) (n : Nat) : Shifted :=
  match type with
  | .lsl =>
    if n = 0 then { value := m, carry := c }
    else { value := m <<< n, carry := m.getLsbD (32 - n) }
  | .lsr =>
    if n = 0 then { value := 0#32, carry := m.getLsbD 31 }
    else { value := m >>> n, carry := m.getLsbD (n - 1) }
  | .asr =>
    if n = 0 then { value := signFill m, carry := m.getLsbD 31 }
    else { value := m.sshiftRight n, carry := m.getLsbD (n - 1) }
  | .ror =>
    if n = 0 then { value := withBit (m >>> 1) 31 c, carry := m.getLsbD 0 }
    else { value := m.rotateRight n, carry := m.getLsbD (n - 1) }

/-- Form RegReg (R154): the amount `n` is the low byte of Rs, 0 to 255; 32 and above are defined. -/
def shiftByReg (c : Bool) (m : Word) (type : ShiftType) (n : Nat) : Shifted :=
  if n = 0 then { value := m, carry := c }
  else
    match type with
    | .lsl =>
      if n < 32 then { value := m <<< n, carry := m.getLsbD (32 - n) }
      else if n = 32 then { value := 0#32, carry := m.getLsbD 0 }
      else { value := 0#32, carry := false }
    | .lsr =>
      if n < 32 then { value := m >>> n, carry := m.getLsbD (n - 1) }
      else if n = 32 then { value := 0#32, carry := m.getLsbD 31 }
      else { value := 0#32, carry := false }
    | .asr =>
      if n < 32 then { value := m.sshiftRight n, carry := m.getLsbD (n - 1) }
      else { value := signFill m, carry := m.getLsbD 31 }
    | .ror =>
      if n % 32 = 0 then { value := m, carry := m.getLsbD 31 }
      else { value := m.rotateRight (n % 32), carry := m.getLsbD (n % 32 - 1) }

/-- `ShifterOperand` (R151) in the view of mode `m`, on the state of before the instruction. -/
def shifterOperand (m : Mode) (o : Operand2) (s : State) : Shifted :=
  match o with
  | .imm rot imm8 => shiftImm (flagC s.cpsr) rot imm8
  | .regImm rm type amount => shiftByImm (flagC s.cpsr) (s.readReg m rm) type amount.val
  | .regReg rm type rs => shiftByReg (flagC s.cpsr) (s.readReg m rm) type ((s.readReg m rs).toNat % 256)

/-- `sext_32(imm24 : 0b00)`, the byte offset of a branch (R101). -/
def branchOffset (imm24 : BitVec 24) : Word := (imm24 ++ 0b00#2).signExtend 32

/-- The target of B and BL: `pc + 8` plus the offset, modulo 2^32 (R201). -/
def branchTarget (pc : Word) (imm24 : BitVec 24) : Word := pc + 8#32 + branchOffset imm24

/-- The updated address of a load or store: base plus or minus the offset, modulo 2^32 (R210). -/
def updatedAddress (base : Word) (up : Bool) (offset12 : BitVec 12) : Word :=
  if up then base + offset12.setWidth 32 else base - offset12.setWidth 32

/-- The address that goes to the bus (R211): the unmodified base when post-indexed. -/
def accessAddress (ix : Index) (base : Word) (up : Bool) (offset12 : BitVec 12) : Word :=
  match ix with
  | .offset => updatedAddress base up offset12
  | .preIndexed => updatedAddress base up offset12
  | .postIndexed => base

/-- The addressing mode writes the updated address back to the base register (R211). -/
def writesBack : Index → Bool
  | .offset => false
  | .preIndexed => true
  | .postIndexed => true

/-- The base register after the access: the updated address with writeback, else as it was (R211). -/
def State.writeBack (s : State) (m : Mode) (ix : Index) (rn : Reg) (updated : Word) : State :=
  if writesBack ix then s.writeReg m rn updated else s

end Sys2Proof.Machine
end

