-- ==== Sys2Proof/Machine/Branch.lean ====
section
/-! DEFINITION. The branch instructions (spec/42_branch.md R201 to R204). -/

namespace Sys2Proof.Machine

/-- B (R201): `pc` goes to the target; nothing else changes. -/
def execB (c : Cond) (imm24 : BitVec 24) (s : State) : Result :=
  whenPassed c s (.next (s.redirect (branchTarget s.pc imm24)).completed)

/-- BL (R202): r14 of the current mode takes `pc + 4`, `pc` goes to the target. -/
def execBl (c : Cond) (imm24 : BitVec 24) (s : State) : Result :=
  whenPassed c s <| inMode s fun m =>
    .next ((s.writeReg m 14 (s.pc + 4#32)).redirect (branchTarget s.pc imm24)).completed

/-- BX (R203): bit 0 of the operand is recorded in `cpsr.T`, `pc` takes the operand with bit 0 clear. -/
def execBx (c : Cond) (rm : Reg) (s : State) : Result :=
  whenPassed c s <| inMode s fun m =>
    let t := s.readReg m rm
    .next ({ s with cpsr := withBit s.cpsr 5 (t.getLsbD 0) }.redirect (t &&& 0xFFFFFFFE#32)).completed

end Sys2Proof.Machine
end

