-- ==== Sys2Proof/Machine/Coprocessor.lean ====
section
/-! DEFINITION. The coprocessor register transfers (spec/46_coprocessor.md R260 to R264). -/

namespace Sys2Proof.Machine

/-- MRC (R261): Rd takes `cp15[id]`; an identifier outside `CP15_IDS` is a step-level error. No mode
check (R263). -/
def execMrc (c : Cond) (id : Cp15Id) (rd : Reg) (s : State) : Result :=
  whenPassed c s <| inMode s fun m =>
    match s.readCp15 id with
    | some v => .next (s.writeDest m rd v).completed
    | none => .fault (.unsupportedCoprocessorRegister id)

/-- MCR (R262): `cp15[id]` takes Rd, all 32 bits, with no effect outside the bank; an identifier outside
`CP15_IDS` is a step-level error. No mode check (R263). -/
def execMcr (c : Cond) (id : Cp15Id) (rd : Reg) (s : State) : Result :=
  whenPassed c s <| inMode s fun m =>
    match s.writeCp15 id (s.readReg m rd) with
    | some t => .next t.advance.completed
    | none => .fault (.unsupportedCoprocessorRegister id)

end Sys2Proof.Machine
end

