-- ==== Sys2Proof/Machine/DataProcessing.lean ====
section
/-! DEFINITION. The data-processing instructions (spec/41_data_processing.md R159 to R177), three operand
forms each. -/

namespace Sys2Proof.Machine

/-- Steps 5 and 6 of R159: the flags when `sf` (R160), then the destination, which a test opcode does
not have; a destination r15 redirects (R161). -/
def dataProcCommit (op : DpOp) (sf : Bool) (m : Mode) (rd : Reg) (o : AluOut) (s : State) : State :=
  let s1 := if sf then { s with cpsr := withNZCV s.cpsr o } else s
  (if op.isTest then s1.advance else s1.writeDest m rd o.result).completed

/-- The common execution R159: all reads see the state of before the instruction; MOV with S and
destination r15 in a privileged mode is the exception return (R162). -/
def dataProcessing (op : DpOp) (c : Cond) (sf : Bool) (rn rd : Reg) (o : Operand2) (s : State) : Result :=
  whenPassed c s <| inMode s fun m =>
    let sh := shifterOperand m o s
    let res := alu op (s.readReg m rn) sh.value sh.carry s.cpsr
    if op = .mov ∧ sf = true ∧ rd = 15 ∧ m.privileged = true then exceptionReturn m res.result s
    else .next (dataProcCommit op sf m rd res s)

/-- AND, immediate (R163). -/
def execAndImm (c : Cond) (sf : Bool) (rn rd : Reg) (rot : Fin 16) (imm8 : Byte) (s : State) : Result :=
  dataProcessing .and c sf rn rd (.imm rot imm8) s

/-- AND, register shifted by immediate (R163). -/
def execAndRegImm (c : Cond) (sf : Bool) (rn rd : Reg) (rm : Reg) (type : ShiftType) (amount : Fin 32) (s : State) : Result :=
  dataProcessing .and c sf rn rd (.regImm rm type amount) s

/-- AND, register shifted by register (R163). -/
def execAndRegReg (c : Cond) (sf : Bool) (rn rd : Reg) (rm : Reg) (type : ShiftType) (rs : Reg) (s : State) : Result :=
  dataProcessing .and c sf rn rd (.regReg rm type rs) s

/-- EOR, immediate (R164). -/
def execEorImm (c : Cond) (sf : Bool) (rn rd : Reg) (rot : Fin 16) (imm8 : Byte) (s : State) : Result :=
  dataProcessing .eor c sf rn rd (.imm rot imm8) s

/-- EOR, register shifted by immediate (R164). -/
def execEorRegImm (c : Cond) (sf : Bool) (rn rd : Reg) (rm : Reg) (type : ShiftType) (amount : Fin 32) (s : State) : Result :=
  dataProcessing .eor c sf rn rd (.regImm rm type amount) s

/-- EOR, register shifted by register (R164). -/
def execEorRegReg (c : Cond) (sf : Bool) (rn rd : Reg) (rm : Reg) (type : ShiftType) (rs : Reg) (s : State) : Result :=
  dataProcessing .eor c sf rn rd (.regReg rm type rs) s

/-- SUB, immediate (R165). -/
def execSubImm (c : Cond) (sf : Bool) (rn rd : Reg) (rot : Fin 16) (imm8 : Byte) (s : State) : Result :=
  dataProcessing .sub c sf rn rd (.imm rot imm8) s

/-- SUB, register shifted by immediate (R165). -/
def execSubRegImm (c : Cond) (sf : Bool) (rn rd : Reg) (rm : Reg) (type : ShiftType) (amount : Fin 32) (s : State) : Result :=
  dataProcessing .sub c sf rn rd (.regImm rm type amount) s

/-- SUB, register shifted by register (R165). -/
def execSubRegReg (c : Cond) (sf : Bool) (rn rd : Reg) (rm : Reg) (type : ShiftType) (rs : Reg) (s : State) : Result :=
  dataProcessing .sub c sf rn rd (.regReg rm type rs) s

/-- RSB, immediate (R166). -/
def execRsbImm (c : Cond) (sf : Bool) (rn rd : Reg) (rot : Fin 16) (imm8 : Byte) (s : State) : Result :=
  dataProcessing .rsb c sf rn rd (.imm rot imm8) s

/-- RSB, register shifted by immediate (R166). -/
def execRsbRegImm (c : Cond) (sf : Bool) (rn rd : Reg) (rm : Reg) (type : ShiftType) (amount : Fin 32) (s : State) : Result :=
  dataProcessing .rsb c sf rn rd (.regImm rm type amount) s

/-- RSB, register shifted by register (R166). -/
def execRsbRegReg (c : Cond) (sf : Bool) (rn rd : Reg) (rm : Reg) (type : ShiftType) (rs : Reg) (s : State) : Result :=
  dataProcessing .rsb c sf rn rd (.regReg rm type rs) s

/-- ADD, immediate (R167). -/
def execAddImm (c : Cond) (sf : Bool) (rn rd : Reg) (rot : Fin 16) (imm8 : Byte) (s : State) : Result :=
  dataProcessing .add c sf rn rd (.imm rot imm8) s

/-- ADD, register shifted by immediate (R167). -/
def execAddRegImm (c : Cond) (sf : Bool) (rn rd : Reg) (rm : Reg) (type : ShiftType) (amount : Fin 32) (s : State) : Result :=
  dataProcessing .add c sf rn rd (.regImm rm type amount) s

/-- ADD, register shifted by register (R167). -/
def execAddRegReg (c : Cond) (sf : Bool) (rn rd : Reg) (rm : Reg) (type : ShiftType) (rs : Reg) (s : State) : Result :=
  dataProcessing .add c sf rn rd (.regReg rm type rs) s

/-- ADC, immediate (R168). -/
def execAdcImm (c : Cond) (sf : Bool) (rn rd : Reg) (rot : Fin 16) (imm8 : Byte) (s : State) : Result :=
  dataProcessing .adc c sf rn rd (.imm rot imm8) s

/-- ADC, register shifted by immediate (R168). -/
def execAdcRegImm (c : Cond) (sf : Bool) (rn rd : Reg) (rm : Reg) (type : ShiftType) (amount : Fin 32) (s : State) : Result :=
  dataProcessing .adc c sf rn rd (.regImm rm type amount) s

/-- ADC, register shifted by register (R168). -/
def execAdcRegReg (c : Cond) (sf : Bool) (rn rd : Reg) (rm : Reg) (type : ShiftType) (rs : Reg) (s : State) : Result :=
  dataProcessing .adc c sf rn rd (.regReg rm type rs) s

/-- SBC, immediate (R169). -/
def execSbcImm (c : Cond) (sf : Bool) (rn rd : Reg) (rot : Fin 16) (imm8 : Byte) (s : State) : Result :=
  dataProcessing .sbc c sf rn rd (.imm rot imm8) s

/-- SBC, register shifted by immediate (R169). -/
def execSbcRegImm (c : Cond) (sf : Bool) (rn rd : Reg) (rm : Reg) (type : ShiftType) (amount : Fin 32) (s : State) : Result :=
  dataProcessing .sbc c sf rn rd (.regImm rm type amount) s

/-- SBC, register shifted by register (R169). -/
def execSbcRegReg (c : Cond) (sf : Bool) (rn rd : Reg) (rm : Reg) (type : ShiftType) (rs : Reg) (s : State) : Result :=
  dataProcessing .sbc c sf rn rd (.regReg rm type rs) s

/-- TST, immediate (R170). -/
def execTstImm (c : Cond) (rn rd : Reg) (rot : Fin 16) (imm8 : Byte) (s : State) : Result :=
  dataProcessing .tst c true rn rd (.imm rot imm8) s

/-- TST, register shifted by immediate (R170). -/
def execTstRegImm (c : Cond) (rn rd : Reg) (rm : Reg) (type : ShiftType) (amount : Fin 32) (s : State) : Result :=
  dataProcessing .tst c true rn rd (.regImm rm type amount) s

/-- TST, register shifted by register (R170). -/
def execTstRegReg (c : Cond) (rn rd : Reg) (rm : Reg) (type : ShiftType) (rs : Reg) (s : State) : Result :=
  dataProcessing .tst c true rn rd (.regReg rm type rs) s

/-- TEQ, immediate (R171). -/
def execTeqImm (c : Cond) (rn rd : Reg) (rot : Fin 16) (imm8 : Byte) (s : State) : Result :=
  dataProcessing .teq c true rn rd (.imm rot imm8) s

/-- TEQ, register shifted by immediate (R171). -/
def execTeqRegImm (c : Cond) (rn rd : Reg) (rm : Reg) (type : ShiftType) (amount : Fin 32) (s : State) : Result :=
  dataProcessing .teq c true rn rd (.regImm rm type amount) s

/-- TEQ, register shifted by register (R171). -/
def execTeqRegReg (c : Cond) (rn rd : Reg) (rm : Reg) (type : ShiftType) (rs : Reg) (s : State) : Result :=
  dataProcessing .teq c true rn rd (.regReg rm type rs) s

/-- CMP, immediate (R172). -/
def execCmpImm (c : Cond) (rn rd : Reg) (rot : Fin 16) (imm8 : Byte) (s : State) : Result :=
  dataProcessing .cmp c true rn rd (.imm rot imm8) s

/-- CMP, register shifted by immediate (R172). -/
def execCmpRegImm (c : Cond) (rn rd : Reg) (rm : Reg) (type : ShiftType) (amount : Fin 32) (s : State) : Result :=
  dataProcessing .cmp c true rn rd (.regImm rm type amount) s

/-- CMP, register shifted by register (R172). -/
def execCmpRegReg (c : Cond) (rn rd : Reg) (rm : Reg) (type : ShiftType) (rs : Reg) (s : State) : Result :=
  dataProcessing .cmp c true rn rd (.regReg rm type rs) s

/-- CMN, immediate (R173). -/
def execCmnImm (c : Cond) (rn rd : Reg) (rot : Fin 16) (imm8 : Byte) (s : State) : Result :=
  dataProcessing .cmn c true rn rd (.imm rot imm8) s

/-- CMN, register shifted by immediate (R173). -/
def execCmnRegImm (c : Cond) (rn rd : Reg) (rm : Reg) (type : ShiftType) (amount : Fin 32) (s : State) : Result :=
  dataProcessing .cmn c true rn rd (.regImm rm type amount) s

/-- CMN, register shifted by register (R173). -/
def execCmnRegReg (c : Cond) (rn rd : Reg) (rm : Reg) (type : ShiftType) (rs : Reg) (s : State) : Result :=
  dataProcessing .cmn c true rn rd (.regReg rm type rs) s

/-- ORR, immediate (R174). -/
def execOrrImm (c : Cond) (sf : Bool) (rn rd : Reg) (rot : Fin 16) (imm8 : Byte) (s : State) : Result :=
  dataProcessing .orr c sf rn rd (.imm rot imm8) s

/-- ORR, register shifted by immediate (R174). -/
def execOrrRegImm (c : Cond) (sf : Bool) (rn rd : Reg) (rm : Reg) (type : ShiftType) (amount : Fin 32) (s : State) : Result :=
  dataProcessing .orr c sf rn rd (.regImm rm type amount) s

/-- ORR, register shifted by register (R174). -/
def execOrrRegReg (c : Cond) (sf : Bool) (rn rd : Reg) (rm : Reg) (type : ShiftType) (rs : Reg) (s : State) : Result :=
  dataProcessing .orr c sf rn rd (.regReg rm type rs) s

/-- MOV, immediate (R175). -/
def execMovImm (c : Cond) (sf : Bool) (rn rd : Reg) (rot : Fin 16) (imm8 : Byte) (s : State) : Result :=
  dataProcessing .mov c sf rn rd (.imm rot imm8) s

/-- MOV, register shifted by immediate (R175). -/
def execMovRegImm (c : Cond) (sf : Bool) (rn rd : Reg) (rm : Reg) (type : ShiftType) (amount : Fin 32) (s : State) : Result :=
  dataProcessing .mov c sf rn rd (.regImm rm type amount) s

/-- MOV, register shifted by register (R175). -/
def execMovRegReg (c : Cond) (sf : Bool) (rn rd : Reg) (rm : Reg) (type : ShiftType) (rs : Reg) (s : State) : Result :=
  dataProcessing .mov c sf rn rd (.regReg rm type rs) s

/-- BIC, immediate (R176). -/
def execBicImm (c : Cond) (sf : Bool) (rn rd : Reg) (rot : Fin 16) (imm8 : Byte) (s : State) : Result :=
  dataProcessing .bic c sf rn rd (.imm rot imm8) s

/-- BIC, register shifted by immediate (R176). -/
def execBicRegImm (c : Cond) (sf : Bool) (rn rd : Reg) (rm : Reg) (type : ShiftType) (amount : Fin 32) (s : State) : Result :=
  dataProcessing .bic c sf rn rd (.regImm rm type amount) s

/-- BIC, register shifted by register (R176). -/
def execBicRegReg (c : Cond) (sf : Bool) (rn rd : Reg) (rm : Reg) (type : ShiftType) (rs : Reg) (s : State) : Result :=
  dataProcessing .bic c sf rn rd (.regReg rm type rs) s

/-- MVN, immediate (R177). -/
def execMvnImm (c : Cond) (sf : Bool) (rn rd : Reg) (rot : Fin 16) (imm8 : Byte) (s : State) : Result :=
  dataProcessing .mvn c sf rn rd (.imm rot imm8) s

/-- MVN, register shifted by immediate (R177). -/
def execMvnRegImm (c : Cond) (sf : Bool) (rn rd : Reg) (rm : Reg) (type : ShiftType) (amount : Fin 32) (s : State) : Result :=
  dataProcessing .mvn c sf rn rd (.regImm rm type amount) s

/-- MVN, register shifted by register (R177). -/
def execMvnRegReg (c : Cond) (sf : Bool) (rn rd : Reg) (rm : Reg) (type : ShiftType) (rs : Reg) (s : State) : Result :=
  dataProcessing .mvn c sf rn rd (.regReg rm type rs) s

end Sys2Proof.Machine
end

