-- ==== Sys2Proof/Machine/LoadStore.lean ====
section
/-! DEFINITION. The load and store instructions (spec/43_load_store.md R210 to R217). -/

namespace Sys2Proof.Machine

/-- LDR (R212, R213): one `read32` of the bus at the address; the base register takes the updated address
in the writeback modes, Rd the loaded word; Rd = 15 redirects. A bus fault changes nothing (R216). -/
def loadWord (bus : Bus BusContents) (ix : Index) (c : Cond) (up : Bool) (rn rd : Reg) (offset12 : BitVec 12) (s : State) : Result :=
  whenPassed c s <| inMode s fun m =>
    let base := s.readReg m rn
    match memRead bus .load (accessAddress ix base up offset12) s with
    | .error f => .fault f
    | .ok (v, t) => .next ((t.writeBack m ix rn (updatedAddress base up offset12)).writeDest m rd v).completed

/-- STR (R214, R215): one `write32` of Rd on the bus, read before any writeback (r15 reads as `pc + 8`); then the
base register takes the updated address in the writeback modes. A bus fault changes nothing (R216). -/
def storeWord (bus : Bus BusContents) (ix : Index) (c : Cond) (up : Bool) (rn rd : Reg) (offset12 : BitVec 12) (s : State) : Result :=
  whenPassed c s <| inMode s fun m =>
    let base := s.readReg m rn
    match memWrite bus (accessAddress ix base up offset12) (s.readReg m rd) s with
    | .error f => .fault f
    | .ok t => .next ((t.writeBack m ix rn (updatedAddress base up offset12)).advance).completed

/-- LDR, offset addressing (R212, R211). -/
def execLdrOffset (c : Cond) (up : Bool) (rn rd : Reg) (offset12 : BitVec 12) (s : State) : Result :=
  loadWord (busOf s.cfg) .offset c up rn rd offset12 s

/-- LDR, pre-indexed (R212, R211). -/
def execLdrPre (c : Cond) (up : Bool) (rn rd : Reg) (offset12 : BitVec 12) (s : State) : Result :=
  loadWord (busOf s.cfg) .preIndexed c up rn rd offset12 s

/-- LDR, post-indexed (R212, R211). -/
def execLdrPost (c : Cond) (up : Bool) (rn rd : Reg) (offset12 : BitVec 12) (s : State) : Result :=
  loadWord (busOf s.cfg) .postIndexed c up rn rd offset12 s

/-- STR, offset addressing (R214, R211). -/
def execStrOffset (c : Cond) (up : Bool) (rn rd : Reg) (offset12 : BitVec 12) (s : State) : Result :=
  storeWord (busOf s.cfg) .offset c up rn rd offset12 s

/-- STR, pre-indexed (R214, R211). -/
def execStrPre (c : Cond) (up : Bool) (rn rd : Reg) (offset12 : BitVec 12) (s : State) : Result :=
  storeWord (busOf s.cfg) .preIndexed c up rn rd offset12 s

/-- STR, post-indexed (R214, R211). -/
def execStrPost (c : Cond) (up : Bool) (rn rd : Reg) (offset12 : BitVec 12) (s : State) : Result :=
  storeWord (busOf s.cfg) .postIndexed c up rn rd offset12 s

end Sys2Proof.Machine
end

