-- ==== Sys2Proof/Machine/Multiply.lean ====
section
/-! DEFINITION. The multiply instructions (spec/44_multiply.md R231 to R233). -/

namespace Sys2Proof.Machine

/-- The end of a multiply: N and Z when `sf`, C and V never; then the destination (R231, R232). -/
def multiplyCommit (sf : Bool) (m : Mode) (rd : Reg) (result : Word) (s : State) : State :=
  let s1 := if sf then { s with cpsr := withNZ s.cpsr result } else s
  (s1.writeDest m rd result).completed

/-- MUL (R231): the product over the integers, reduced modulo 2^32 (R233); the field rn is ignored. -/
def execMul (c : Cond) (sf : Bool) (rd _rn rs rm : Reg) (s : State) : Result :=
  whenPassed c s <| inMode s fun m =>
    let result := BitVec.ofNat 32 ((s.readReg m rm).toNat * (s.readReg m rs).toNat)
    .next (multiplyCommit sf m rd result s)

/-- MLA (R232): the product plus Rn over the integers, reduced modulo 2^32 (R233). -/
def execMla (c : Cond) (sf : Bool) (rd rn rs rm : Reg) (s : State) : Result :=
  whenPassed c s <| inMode s fun m =>
    let result := BitVec.ofNat 32 ((s.readReg m rm).toNat * (s.readReg m rs).toNat + (s.readReg m rn).toNat)
    .next (multiplyCommit sf m rd result s)

end Sys2Proof.Machine
end

