-- ==== Sys2Proof/Machine/System.lean ====
section
/-! DEFINITION. The system instructions (spec/45_system.md R242 to R251). -/

namespace Sys2Proof.Machine

/-- MRS (R242): Rd takes the whole `cpsr`, or the SPSR of the current mode; User mode has no SPSR, which
is a defect (R243). -/
def execMrs (c : Cond) (spsr : Bool) (rd : Reg) (s : State) : Result :=
  whenPassed c s <| inMode s fun m =>
    if spsr then
      match s.spsr m with
      | some p => .next (s.writeDest m rd p).completed
      | none => .fault (.defect .noSpsr)
    else .next (s.writeDest m rd s.cpsr).completed

/-- `p` with N, Z, C, V taken from `v[31:28]` (R245). -/
def withFlagsOf (p v : Word) : Word :=
  withBit (withBit (withBit (withBit p 31 (v.getLsbD 31)) 30 (v.getLsbD 30)) 29 (v.getLsbD 29)) 28 (v.getLsbD 28)

/-- MSR (R245): mask bit f (bit 3 of the field) writes N, Z, C, V; mask bit c (bit 0) writes the mode
field in a privileged mode and is ignored in User mode; bits s and x select nothing. An unimplemented
mode value is a defect and nothing is written. I, F, T and bits 27 to 8 are never written. -/
def execMsr (c : Cond) (mask : BitVec 4) (rm : Reg) (s : State) : Result :=
  whenPassed c s <| inMode s fun m =>
    let v := s.readReg m rm
    let writeFlags := mask.getLsbD 3
    let writeMode := mask.getLsbD 0 && m.privileged
    if writeMode = true ∧ Mode.ofBits (modeField v) = none then .fault (.defect .msrMode)
    else
      let p1 := if writeFlags then withFlagsOf s.cpsr v else s.cpsr
      let p2 := if writeMode then withModeField p1 (modeField v) else p1
      .next (({ s with cpsr := p2 }.advance).completed)

/-- SWI (R248): the SoftwareInterrupt trap, in every mode. -/
def execSwi (c : Cond) (imm24 : BitVec 24) (s : State) : Result :=
  whenPassed c s (.next (raiseSoftwareInterrupt imm24 s))

/-- WFI (R250): Halted, whatever the interrupt-pending level is; `pc` advances as usual. -/
def execWfi (c : Cond) (s : State) : Result :=
  whenPassed c s (.next ({ s with run := .halted }.advance).completed)

end Sys2Proof.Machine
end

