-- ==== Sys2Proof/Machine/Dispatch.lean ====
section
/-! DEFINITION. The dispatch of spec/40_step_and_condition.md R134: one arm per constructor of `Instr`. -/

namespace Sys2Proof.Machine

def exec (i : Instr) (s : State) : Host.Outcome State Fault Refusal :=
  match i with
  | .andImm c sf rn rd rot imm8 => Sys2Proof.Machine.execAndImm c sf rn rd rot imm8 s
  | .andRegImm c sf rn rd rm type amount => Sys2Proof.Machine.execAndRegImm c sf rn rd rm type amount s
  | .andRegReg c sf rn rd rm type rs => Sys2Proof.Machine.execAndRegReg c sf rn rd rm type rs s
  | .eorImm c sf rn rd rot imm8 => Sys2Proof.Machine.execEorImm c sf rn rd rot imm8 s
  | .eorRegImm c sf rn rd rm type amount => Sys2Proof.Machine.execEorRegImm c sf rn rd rm type amount s
  | .eorRegReg c sf rn rd rm type rs => Sys2Proof.Machine.execEorRegReg c sf rn rd rm type rs s
  | .subImm c sf rn rd rot imm8 => Sys2Proof.Machine.execSubImm c sf rn rd rot imm8 s
  | .subRegImm c sf rn rd rm type amount => Sys2Proof.Machine.execSubRegImm c sf rn rd rm type amount s
  | .subRegReg c sf rn rd rm type rs => Sys2Proof.Machine.execSubRegReg c sf rn rd rm type rs s
  | .rsbImm c sf rn rd rot imm8 => Sys2Proof.Machine.execRsbImm c sf rn rd rot imm8 s
  | .rsbRegImm c sf rn rd rm type amount => Sys2Proof.Machine.execRsbRegImm c sf rn rd rm type amount s
  | .rsbRegReg c sf rn rd rm type rs => Sys2Proof.Machine.execRsbRegReg c sf rn rd rm type rs s
  | .addImm c sf rn rd rot imm8 => Sys2Proof.Machine.execAddImm c sf rn rd rot imm8 s
  | .addRegImm c sf rn rd rm type amount => Sys2Proof.Machine.execAddRegImm c sf rn rd rm type amount s
  | .addRegReg c sf rn rd rm type rs => Sys2Proof.Machine.execAddRegReg c sf rn rd rm type rs s
  | .adcImm c sf rn rd rot imm8 => Sys2Proof.Machine.execAdcImm c sf rn rd rot imm8 s
  | .adcRegImm c sf rn rd rm type amount => Sys2Proof.Machine.execAdcRegImm c sf rn rd rm type amount s
  | .adcRegReg c sf rn rd rm type rs => Sys2Proof.Machine.execAdcRegReg c sf rn rd rm type rs s
  | .sbcImm c sf rn rd rot imm8 => Sys2Proof.Machine.execSbcImm c sf rn rd rot imm8 s
  | .sbcRegImm c sf rn rd rm type amount => Sys2Proof.Machine.execSbcRegImm c sf rn rd rm type amount s
  | .sbcRegReg c sf rn rd rm type rs => Sys2Proof.Machine.execSbcRegReg c sf rn rd rm type rs s
  | .tstImm c rn rd rot imm8 => Sys2Proof.Machine.execTstImm c rn rd rot imm8 s
  | .tstRegImm c rn rd rm type amount => Sys2Proof.Machine.execTstRegImm c rn rd rm type amount s
  | .tstRegReg c rn rd rm type rs => Sys2Proof.Machine.execTstRegReg c rn rd rm type rs s
  | .teqImm c rn rd rot imm8 => Sys2Proof.Machine.execTeqImm c rn rd rot imm8 s
  | .teqRegImm c rn rd rm type amount => Sys2Proof.Machine.execTeqRegImm c rn rd rm type amount s
  | .teqRegReg c rn rd rm type rs => Sys2Proof.Machine.execTeqRegReg c rn rd rm type rs s
  | .cmpImm c rn rd rot imm8 => Sys2Proof.Machine.execCmpImm c rn rd rot imm8 s
  | .cmpRegImm c rn rd rm type amount => Sys2Proof.Machine.execCmpRegImm c rn rd rm type amount s
  | .cmpRegReg c rn rd rm type rs => Sys2Proof.Machine.execCmpRegReg c rn rd rm type rs s
  | .cmnImm c rn rd rot imm8 => Sys2Proof.Machine.execCmnImm c rn rd rot imm8 s
  | .cmnRegImm c rn rd rm type amount => Sys2Proof.Machine.execCmnRegImm c rn rd rm type amount s
  | .cmnRegReg c rn rd rm type rs => Sys2Proof.Machine.execCmnRegReg c rn rd rm type rs s
  | .orrImm c sf rn rd rot imm8 => Sys2Proof.Machine.execOrrImm c sf rn rd rot imm8 s
  | .orrRegImm c sf rn rd rm type amount => Sys2Proof.Machine.execOrrRegImm c sf rn rd rm type amount s
  | .orrRegReg c sf rn rd rm type rs => Sys2Proof.Machine.execOrrRegReg c sf rn rd rm type rs s
  | .movImm c sf rn rd rot imm8 => Sys2Proof.Machine.execMovImm c sf rn rd rot imm8 s
  | .movRegImm c sf rn rd rm type amount => Sys2Proof.Machine.execMovRegImm c sf rn rd rm type amount s
  | .movRegReg c sf rn rd rm type rs => Sys2Proof.Machine.execMovRegReg c sf rn rd rm type rs s
  | .bicImm c sf rn rd rot imm8 => Sys2Proof.Machine.execBicImm c sf rn rd rot imm8 s
  | .bicRegImm c sf rn rd rm type amount => Sys2Proof.Machine.execBicRegImm c sf rn rd rm type amount s
  | .bicRegReg c sf rn rd rm type rs => Sys2Proof.Machine.execBicRegReg c sf rn rd rm type rs s
  | .mvnImm c sf rn rd rot imm8 => Sys2Proof.Machine.execMvnImm c sf rn rd rot imm8 s
  | .mvnRegImm c sf rn rd rm type amount => Sys2Proof.Machine.execMvnRegImm c sf rn rd rm type amount s
  | .mvnRegReg c sf rn rd rm type rs => Sys2Proof.Machine.execMvnRegReg c sf rn rd rm type rs s
  | .b c imm24 => Sys2Proof.Machine.execB c imm24 s
  | .bl c imm24 => Sys2Proof.Machine.execBl c imm24 s
  | .bx c rm => Sys2Proof.Machine.execBx c rm s
  | .ldrOffset c up rn rd offset12 => Sys2Proof.Machine.execLdrOffset c up rn rd offset12 s
  | .ldrPre c up rn rd offset12 => Sys2Proof.Machine.execLdrPre c up rn rd offset12 s
  | .ldrPost c up rn rd offset12 => Sys2Proof.Machine.execLdrPost c up rn rd offset12 s
  | .strOffset c up rn rd offset12 => Sys2Proof.Machine.execStrOffset c up rn rd offset12 s
  | .strPre c up rn rd offset12 => Sys2Proof.Machine.execStrPre c up rn rd offset12 s
  | .strPost c up rn rd offset12 => Sys2Proof.Machine.execStrPost c up rn rd offset12 s
  | .mul c sf rd rn rs rm => Sys2Proof.Machine.execMul c sf rd rn rs rm s
  | .mla c sf rd rn rs rm => Sys2Proof.Machine.execMla c sf rd rn rs rm s
  | .mrs c spsr rd => Sys2Proof.Machine.execMrs c spsr rd s
  | .msr c mask rm => Sys2Proof.Machine.execMsr c mask rm s
  | .swi c imm24 => Sys2Proof.Machine.execSwi c imm24 s
  | .wfi c => Sys2Proof.Machine.execWfi c s
  | .mrc c id rd => Sys2Proof.Machine.execMrc c id rd s
  | .mcr c id rd => Sys2Proof.Machine.execMcr c id rd s

end Sys2Proof.Machine
end

