-- ==== Sys2Proof/Machine/Fetch.lean ====
section
/-! DEFINITION. The pieces of a step around `exec` (spec/40_step_and_condition.md R130): the fetch, the
decode with its Undefined trap, the idle step, the step for any bus; and the placing of a word where the next fetch reads. -/

namespace Sys2Proof.Machine

/-- Step 2 of R130: one `read32(pc)` of the bus. -/
def fetch (bus : Bus BusContents) (s : State) : Except Fault (Word × State) := memRead bus .fetch s.pc s

/-- Steps 2 to 7 of R130 for a core that runs: fetch, decode, then the Undefined trap for a word that
does not decode, whatever its condition (R132), or the instruction, which `execute` carries out. -/
def fetchExecute (bus : Bus BusContents) (execute : Instr → State → Result) (s : State) : Result :=
  match fetch bus s with
  | .error f => .fault f
  | .ok (w, t) =>
    match decodeWord w with
    | .error _ => .next (raiseUndefined t)
    | .ok i => execute i t

/-- A Halted step that stays Halted: `Ok(CYC_HALTED, none)`, nothing changes (R292). -/
def idle (s : State) : State := s.report s.cfg.cycHalted none none

/-- One step with the interrupt-pending level of the state. A Halted core stays Halted while the level
is low (R292); otherwise it wakes and the same step goes on (R291). A Running core ignores the level
(R290). -/
def stepWith (bus : Bus BusContents) (execute : Instr → State → Result) (s : State) : Result :=
  match s.run, s.irqPending with
  | .halted, false => .next (idle s)
  | .halted, true => fetchExecute bus execute { s with run := .running }
  | .running, _ => fetchExecute bus execute s

/-- An instruction with the bus given as an argument (R7, R60). LDR and STR are the only instructions
that call the bus (R61, R62); every other one is `exec`. -/
def execOn (bus : Bus BusContents) (i : Instr) (s : State) : Result :=
  match i with
  | .ldrOffset c up rn rd off => loadWord bus .offset c up rn rd off s
  | .ldrPre c up rn rd off => loadWord bus .preIndexed c up rn rd off s
  | .ldrPost c up rn rd off => loadWord bus .postIndexed c up rn rd off s
  | .strOffset c up rn rd off => storeWord bus .offset c up rn rd off s
  | .strPre c up rn rd off => storeWord bus .preIndexed c up rn rd off s
  | .strPost c up rn rd off => storeWord bus .postIndexed c up rn rd off s
  | i => exec i s

/-- The step function with the bus given as an argument, as R7 and R60 ask: any bus whatever. `step` is
this with the bus that the parameters in the state choose (`step_eq_stepOn`). -/
def stepOn (bus : Bus BusContents) (s : State) : Result := stepWith bus (execOn bus) s

/-- The state with the word `w` of `nbits` bits (the bits above them zero) where the next step fetches:
its four bytes from `pc`, mapped if they were not, the reference bus chosen, and the core Running
(log 12). -/
def placeWord (s : State) (nbits w : Nat) : State :=
  let a := s.pc.toNat
  let cfg := if mappedBytes s.cfg a 4 then s.cfg
    else { s.cfg with mapped := { base := a, size := 4 } :: s.cfg.mapped }
  { s with
    mem := memSetWord s.mem a (BitVec.ofNat 32 (w % 2 ^ nbits))
    run := .running
    cfg := { cfg with bus := .reference } }

end Sys2Proof.Machine
end

