-- ==== Sys2Proof/Machine/Step.lean ====
section
/-! DEFINITION. One step (spec/40_step_and_condition.md R130) and the fixed name the host places a word
with. -/

namespace Sys2Proof.Machine

/-- One step (R130), with the bus that the parameters in the state choose (R7) and the interrupt-pending
level of the state (R49). -/
def step (s : State) : Host.Outcome State Fault Refusal := stepWith (busOf s.cfg) exec s

/-- The state with an instruction word stored where `step` fetches next. -/
def State.withFetchWord (s : State) (nbits w : Nat) : State := placeWord s nbits w

end Sys2Proof.Machine
end

