-- ==== Sys2Proof/Machine/HostPort.lean ====
section
/-! DEFINITION. What the host can do between steps (spec/60_exceptions.md R296 to R299;
spec/10_state.md R49, R52, R53; spec/20_memory.md R78). R298 is the complete list. -/

namespace Sys2Proof.Machine

/-- Raise or lower the interrupt-pending input (R49, R290). -/
def setIrqPending (level : Bool) (s : State) : State := { s with irqPending := level }

/-- `reset()` between steps (R53, R310): every element of the core to its reset value, the unspecified
ones drawn by the caller. Memory and the input are not touched (R312); it is not a trap and returns
no record (R311). -/
def resetInput (d : ResetDraw) (s : State) : State := State.resetWith s.cfg d s.contents s.irqPending

/-- A register the kernel collaborator may write back (R297). -/
inductive HostRegister where
  | low (i : Fin 13)
  | r13Svc
  | r14Svc
  deriving DecidableEq, Repr

/-- One register written by the kernel collaborator (R297). -/
def hostWriteRegister (s : State) (reg : HostRegister) (v : Word) : State :=
  match reg with
  | .low i => { s with r := s.r.set i.val v }
  | .r13Svc => { s with r13 := s.r13.set .supervisor v }
  | .r14Svc => { s with r14 := s.r14.set .supervisor v }

/-- The write-back window is open: the last step returned a service-call record (R297). -/
def writeBackOpen (s : State) : Bool := s.out.service.isSome

/-- The kernel collaborator's write-back (R297): any of r0 to r12, r13_svc, r14_svc, only between an SWI
step and the next step. Outside that window nothing changes. -/
def hostWriteBack (writes : List (HostRegister × Word)) (s : State) : State :=
  if writeBackOpen s then writes.foldl (fun t w => hostWriteRegister t w.1 w.2) s else s

/-- A byte of memory changed by the loader, the kernel or the GPU between steps (R78). -/
def hostWriteMemory (a : Word) (b : Byte) (s : State) : State := { s with mem := memSetByte s.mem a.toNat b }

/-- What stands behind a platform's own bus changed between steps, by the platform or another agent
(R78): any contents, which only that bus understands (log 9, log 20). -/
def hostChangePlatform (contents : List Nat) (s : State) : State := { s with platform := contents }

/-- A word placed little-endian by the loader between steps (R78, R63). -/
def hostWriteWord (a : Word) (v : Word) (s : State) : State :=
  hostWriteMemory (a + 3#32) (v.extractLsb' 24 8) <| hostWriteMemory (a + 2#32) (v.extractLsb' 16 8) <|
    hostWriteMemory (a + 1#32) (v.extractLsb' 8 8) <| hostWriteMemory a (v.extractLsb' 0 8) s

/-- The introspection snapshot: every element of R20, all banked copies included (R52, R299). -/
structure Snapshot where
  r : Vector Word 13
  r13 : Banked
  r14 : Banked
  pc : Word
  cpsr : Word
  spsrSvc : Word
  spsrUnd : Word
  cp15 : List (Nat × Word)
  run : RunState
  deriving DecidableEq, Repr

/-- Introspection between steps: a function of the state that changes nothing (R299). -/
def introspect (s : State) : Snapshot where
  r := s.r
  r13 := s.r13
  r14 := s.r14
  pc := s.pc
  cpsr := s.cpsr
  spsrSvc := s.spsrSvc
  spsrUnd := s.spsrUnd
  cp15 := s.cp15
  run := s.run

end Sys2Proof.Machine
end

