-- ==== Sys2Proof/Safety.lean ====
section
/-! DEFINITION. The terms claims use: the invariant of reachable states (spec/10_state.md R33, R39, R46;
spec/00_scope.md R7) and what counts as a safe run (spec/60_exceptions.md R283, R284). -/

namespace Sys2Proof.Machine

/-- Bits 27 to 8 of a status word are 0 (R31, R46). -/
abbrev reservedClear (p : Word) : Prop := p.extractLsb' 8 20 = 0#20

/-- The constraints R7 puts on the open parameters. -/
abbrev configOk (cfg : Config) : Prop :=
  cfg.vecUndef.toNat % 4 = 0 ∧ cfg.vecSwi.toNat % 4 = 0 ∧ cfg.vecUndef ≠ cfg.vecSwi ∧
  keysRise cfg.cp15 ∧ (∀ c ∈ cfg.cp15, c.1 < 2 ^ 14) ∧
  1 ≤ cfg.cycSkip ∧ cfg.cycSkip ≤ cfg.cycInsn ∧
  cfg.resetPc.toNat % 4 = 0 ∧ (Mode.ofBits (modeField cfg.resetCpsr)).isSome = true ∧
  reservedClear cfg.resetCpsr ∧ cfg.resetCpsr.getLsbD 5 = false ∧
  (∀ r ∈ cfg.mapped, r.base + r.size ≤ 2 ^ 32)

/-- The coprocessor bank lists exactly the implemented identifiers (R20, R40). -/
abbrev bankOk (s : State) : Prop := s.cp15.map Prod.fst = s.cfg.cp15.map Prod.fst

/-- The invariant of reachable states: the mode is one of the three (R33), bits 27 to 8 of every status
word are 0 (R31, R33, R46), memory is in its canonical form, the bank lists the implemented
registers, and the parameters meet R7. -/
structure Inv (s : State) : Prop where
  mode : s.mode.isSome = true
  cpsrClear : reservedClear s.cpsr
  spsrSvcClear : reservedClear s.spsrSvc
  spsrUndClear : reservedClear s.spsrUnd
  memory : Memory.wf s.mem
  bank : bankOk s
  config : configOk s.cfg

/-- A draw of the unspecified reset values that R46 allows: bits 27 to 8 of each SPSR are 0. -/
abbrev drawOk (d : ResetDraw) : Prop := reservedClear d.spsrSvc ∧ reservedClear d.spsrUnd

/-- The fault is one of the two step-level errors of R283, for the caller to decide about; a defect is
none, and nothing is claimed after it (R284). DESIGN CHOICE (log 23), safe: the spec does not say of
which kind the fault of a read of unwritten memory is (R313, U2: "nothing is claimed afterwards");
R10 and R283 name two step-level errors and it is neither, so it counts with the defects, and
`safeRun` refuses a run that stops there. -/
def Fault.isStepLevelError : Fault → Bool
  | .memoryFault .. => true
  | .unwrittenMemory .. => false
  | .unsupportedCoprocessorRegister _ => true
  | .defect _ => false

/-- A run of `n` steps is safe: it does not end in a defect (R284), in a read of unwritten memory
(DESIGN CHOICE, log 23) or in a refusal. -/
def safeRun (n : Nat) (s : State) : Prop :=
  match Sys2Proof.core.run n s with
  | .next _ => True
  | .fault f => f.isStepLevelError = true
  | .refused _ => False

/-- A run has ended normally: Halted with the interrupt-pending input low (R316). -/
def ended (s : State) : Prop := s.run = .halted ∧ s.irqPending = false

end Sys2Proof.Machine
end

