-- ==== Sys2Proof/Certificates/Slice0/Obligations.lean ====
section
/-! DEFINITION. The statements about this machine for the provers, with the vocabulary they share. -/

namespace Sys2Proof.Spec
open Sys2Proof.Machine

/-- The field `w[lo + len - 1 : lo]` as a number. -/
def bits (w : Word) (lo len : Nat) : Nat := (w.extractLsb' lo len).toNat

/-- Every general register but r15 and those of `ds` reads in mode `m` as before, and the copies of r13
and r14 of every other mode are as before. -/
def RegistersKept (m : Mode) (ds : List Reg) (s t : State) : Prop :=
  (∀ i : Reg, i ≠ 15 → i ∉ ds → t.readReg m i = s.readReg m i) ∧
  (∀ m', m' ≠ m → t.r13.get m' = s.r13.get m' ∧ t.r14.get m' = s.r14.get m')

/-- Every byte of the reference bus's memory reads as before, and what stands behind a platform's own bus
is as before. -/
def MemoryKept (s t : State) : Prop := (∀ a, memByte t a = memByte s a) ∧ t.platform = s.platform

/-- Both SPSRs, the coprocessor bank, the run state, the interrupt-pending level and the parameters are
as before. -/
def SystemKept (s t : State) : Prop :=
  t.spsrSvc = s.spsrSvc ∧ t.spsrUnd = s.spsrUnd ∧ t.cp15 = s.cp15 ∧ t.run = s.run ∧
  t.irqPending = s.irqPending ∧ t.cfg = s.cfg

/-- What a step returns for an instruction that completed without a trap. -/
def okOutput (s : State) : StepOutput := { cycles := s.cfg.cycInsn, record := none, service := none }

/-- The result of a data-processing opcode, modulo 2^32. -/
def dpResult (op : DpOp) (a b : Word) (c : Bool) : Word :=
  match op with
  | .and | .tst => a &&& b
  | .eor | .teq => a ^^^ b
  | .sub | .cmp => a - b
  | .rsb => b - a
  | .add | .cmn => a + b
  | .adc => a + b + BitVec.ofNat 32 c.toNat
  | .sbc => a - b - BitVec.ofNat 32 (1 - c.toNat)
  | .orr => a ||| b
  | .mov => b
  | .bic => a &&& ~~~b
  | .mvn => ~~~b

/-- The C flag of a data-processing opcode: a carry out of an unsigned sum, no borrow in an unsigned
difference, or the shifter carry-out `sc`. -/
def dpCarry (op : DpOp) (a b : Word) (c sc : Bool) : Prop :=
  match op with
  | .sub | .cmp => b.toNat ≤ a.toNat
  | .rsb => a.toNat ≤ b.toNat
  | .add | .cmn => 2 ^ 32 ≤ a.toNat + b.toNat
  | .adc => 2 ^ 32 ≤ a.toNat + b.toNat + c.toNat
  | .sbc => b.toNat + (1 - c.toNat) ≤ a.toNat
  | .and | .eor | .tst | .teq | .orr | .mov | .bic | .mvn => sc = true

/-- The exact signed value lies outside the 32-bit signed range. -/
def outOfRange (x : Int) : Prop := x < -(2 ^ 31) ∨ 2 ^ 31 ≤ x

/-- The V flag of a data-processing opcode: signed overflow of the exact sum or difference, or the old
V for a logical opcode. -/
def dpOverflow (op : DpOp) (a b : Word) (c v : Bool) : Prop :=
  match op with
  | .sub | .cmp => outOfRange (a.toInt - b.toInt)
  | .rsb => outOfRange (b.toInt - a.toInt)
  | .add | .cmn => outOfRange (a.toInt + b.toInt)
  | .adc => outOfRange (a.toInt + b.toInt + (c.toNat : Int))
  | .sbc => outOfRange (a.toInt - b.toInt - (1 - (c.toNat : Int)))
  | .and | .eor | .tst | .teq | .orr | .mov | .bic | .mvn => v = true

/-- The row of the condition matrix (95_test_vectors.md 2.1) as a number: bit `NZCV` is 1 when the
condition passes with those flags. -/
def conditionRow : Cond → Nat
  | .eq => 0b1111000011110000
  | .ne => 0b0000111100001111
  | .cs => 0b1100110011001100
  | .cc => 0b0011001100110011
  | .mi => 0b1111111100000000
  | .pl => 0b0000000011111111
  | .vs => 0b1010101010101010
  | .vc => 0b0101010101010101
  | .hi => 0b0000110000001100
  | .ls => 0b1111001111110011
  | .ge => 0b1010101001010101
  | .lt => 0b0101010110101010
  | .gt => 0b0000101000000101
  | .le => 0b1111010111111010
  | .al => 0b1111111111111111
  | .nv => 0b0000000000000000

/-- The three mode encodings (R32). -/
def implementedMode (b : BitVec 5) : Prop := b = 0b10000#5 ∨ b = 0b10011#5 ∨ b = 0b11011#5

/-- The reference bus answers a word access at `a`: a multiple of 4 whose four bytes are mapped. -/
def wordMapped (s : State) (a : Word) : Prop :=
  a.toNat % 4 = 0 ∧ ∀ k, k < 4 → mappedByte s.cfg (a.toNat + k) = true

/-- Memory holds the word `v` little-endian at `a`. -/
def holdsWord (s : State) (a v : Word) : Prop :=
  ∀ k, k < 4 → memByte s (a.toNat + k) = some (v.extractLsb' (8 * k) 8)

/-! The bus is a parameter: the statements about an access hold for the reference bus (log 9), where they
speak of the bytes of memory, and for any other bus, where they speak of its own answers. -/

/-- A word read at `a` answers `v` and leaves `c` behind the bus. -/
def wordRead (s : State) (a v : Word) (c : BusContents) : Prop :=
  match s.cfg.bus with
  | .reference => wordMapped s a ∧ holdsWord s a v ∧ c = s.contents
  | .platform n => ∃ p, (Config.platformBus n).read32 a s.platform = .value (v, p) ∧
      c = { mem := s.mem, platform := p }

/-- A word read at `a` answers MemoryFault. -/
def readRefused (s : State) (a : Word) : Prop :=
  match s.cfg.bus with
  | .reference => ¬ wordMapped s a
  | .platform n => (Config.platformBus n).read32 a s.platform = .memoryFault

/-- A word read at `a` finds memory that nothing has written. -/
def readUnwritten (s : State) (a : Word) : Prop :=
  match s.cfg.bus with
  | .reference => wordMapped s a ∧ ∃ k, k < 4 ∧ memByte s (a.toNat + k) = none
  | .platform n => (Config.platformBus n).read32 a s.platform = .unwritten

/-- The bus takes a word write of `v` at `a`. -/
def writeAccepted (s : State) (a v : Word) : Prop :=
  match s.cfg.bus with
  | .reference => wordMapped s a
  | .platform n => ((Config.platformBus n).write32 a v s.platform).isSome = true

/-- A word write of `v` at `a` took the bus from its contents in `s` to those in `t`: on the reference bus
the word's bytes are at `a`, every other byte as before. -/
def wordWritten (s t : State) (a v : Word) : Prop :=
  match s.cfg.bus with
  | .reference => holdsWord t a v ∧
      (∀ x, (x < a.toNat ∨ a.toNat + 4 ≤ x) → memByte t x = memByte s x) ∧ t.platform = s.platform
  | .platform n => (Config.platformBus n).write32 a v s.platform = some t.platform ∧ t.mem = s.mem

end Sys2Proof.Spec

open Sys2Proof Sys2Proof.Machine Sys2Proof.Spec

/-! ## Encoding and decoding -/

/-- 30_encoding.md sections 2 to 6: decoding the bytes of an encoded well-formed instruction gives it
back, with every operand at every value, and leaves the bytes after it. -/
def Obligations.DecodeOfEncodedInstruction : Prop :=
  ∀ (i : Instr) (rest : List Byte), i.wf = true →
    decodeBytes (wordBytes (encode i) ++ rest) = .ok (i, rest)

/-- 30_encoding.md sections 3 to 6: no bit of a word that decodes is dropped, the fields an instruction
ignores (R120) included. -/
def Obligations.EncodeOfDecodedWord : Prop :=
  ∀ (w : Word) (i : Instr), decodeWord w = .ok i → encode i = w

/-- 30_encoding.md section 1: the top four bits of a word are the decoded instruction's condition, and
whether a word decodes does not depend on them. -/
def Obligations.ConditionFieldIndependentOfClass : Prop :=
  ∀ (w w' : Word) (i : Instr), decodeWord w = .ok i → bits w 0 28 = bits w' 0 28 →
    i.cond.code = bits w 28 4 ∧ ∃ j, decodeWord w' = .ok j ∧ j.cond.code = bits w' 28 4 ∧
      bits (encode j) 0 28 = bits (encode i) 0 28

/-- 30_encoding.md sections 5 and 6: register-offset and media space, load/store multiple, coprocessor
load/store, byte loads, the T forms, RSC, CDP and other coprocessors never decode; every word of the
branch and SWI spaces does. -/
def Obligations.OpcodeMapSpaces : Prop :=
  ∀ w : Word,
    ((bits w 25 3 = 0b011 ∨ bits w 25 3 = 0b100 ∨ bits w 25 3 = 0b110) →
      decodeWord w = .error .unsupportedEncoding) ∧
    (bits w 25 3 = 0b010 → (bits w 22 1 = 1 ∨ (bits w 24 1 = 0 ∧ bits w 21 1 = 1)) →
      decodeWord w = .error .unsupportedEncoding) ∧
    (bits w 26 2 = 0b00 → bits w 21 4 = 0b0111 → decodeWord w = .error .unsupportedEncoding) ∧
    (bits w 24 4 = 0b1110 → (bits w 4 1 = 0 ∨ bits w 8 4 ≠ 0b1111) →
      decodeWord w = .error .unsupportedEncoding) ∧
    (bits w 25 3 = 0b101 → ∃ c n, decodeWord w = .ok (.b c n) ∨ decodeWord w = .ok (.bl c n)) ∧
    (bits w 24 4 = 0b1111 → ∃ c n, decodeWord w = .ok (.swi c n))

/-- 30_encoding.md section 6: the register exclusions a to f, bit by bit on the word. In clause a the
miscellaneous space, where BX stands, is left out. -/
def Obligations.RegisterExclusionsRefused : Prop :=
  ∀ w : Word,
    (bits w 25 3 = 0b000 → bits w 7 1 = 0 → bits w 4 1 = 1 → ¬(bits w 23 2 = 0b10 ∧ bits w 20 1 = 0) →
      (bits w 0 4 = 15 ∨ bits w 8 4 = 15 ∨
        (bits w 16 4 = 15 ∧ bits w 21 4 ≠ 0b1101 ∧ bits w 21 4 ≠ 0b1111) ∨
        (bits w 12 4 = 15 ∧ bits w 23 2 ≠ 0b10)) →
      decodeWord w = .error .unsupportedEncoding) ∧
    (bits w 25 3 = 0b010 → (bits w 24 1 = 0 ∨ bits w 21 1 = 1) →
      (bits w 16 4 = bits w 12 4 ∨ bits w 16 4 = 15) → decodeWord w = .error .unsupportedEncoding) ∧
    (bits w 22 6 = 0 → bits w 4 4 = 0b1001 →
      (bits w 16 4 = 15 ∨ bits w 0 4 = 15 ∨ bits w 8 4 = 15 ∨ (bits w 21 1 = 1 ∧ bits w 12 4 = 15)) →
      decodeWord w = .error .unsupportedEncoding) ∧
    (bits w 23 5 = 0b00010 → bits w 16 6 = 0b001111 → bits w 0 12 = 0 → bits w 12 4 = 15 →
      decodeWord w = .error .unsupportedEncoding) ∧
    (bits w 20 8 = 0b00010010 → bits w 4 12 = 0xF00 → bits w 0 4 = 15 →
      decodeWord w = .error .unsupportedEncoding) ∧
    (bits w 24 4 = 0b1110 → bits w 12 4 = 15 → decodeWord w = .error .unsupportedEncoding)

/-- 95_test_vectors.md section 2.2: a few words written out from the encoding tables. -/
def Obligations.WrittenOutWordsDecode : Prop :=
  decodeWord 0xE21100FF#32 = .ok (.andImm .al true 1 0 0 0xFF#8) ∧
  decodeWord 0xEB000002#32 = .ok (.bl .al 2#24) ∧
  decodeWord 0xE5B10004#32 = .ok (.ldrPre .al true 1 0 4#12) ∧
  decodeWord 0xE0303291#32 = .ok (.mla .al true 0 3 2 1) ∧
  decodeWord 0xE129F000#32 = .ok (.msr .al 9#4 0) ∧
  decodeWord 0xEE0D1F50#32 = .ok (.mcr .al { opc1 := 0, crn := 13, crm := 0, opc2 := 2 } 1) ∧
  decodeWord 0xE5B11004#32 = .error .unsupportedEncoding

/-! ## The step -/

/-- 40_step_and_condition.md section 1: when the bus answers the fetch with a word that decodes to `i`, a
Running step is exactly `exec i` of the state with the contents the fetch left behind the bus (on the
reference bus the state itself), and a waking step is that of the state with `run` Running. And the bus is
an argument of the step function: with any bus whatever `stepOn` is `execOn` of that instruction, and `step`
and `exec` are these with the bus that the parameters choose. -/
def Obligations.StepRunsDecodedInstruction : Prop :=
  ∀ (s : State) (w : Word) (i : Instr) (c : BusContents), decodeWord w = .ok i →
    (wordRead s s.pc w c →
      (s.run = .running → step s = exec i (s.withContents c)) ∧
      (s.run = .halted → s.irqPending = true → step s = exec i { s.withContents c with run := .running }) ∧
      (s.cfg.bus = .reference → s.withContents c = s)) ∧
    (∀ bus : Bus BusContents, bus.read32 s.pc s.contents = .value (w, c) → s.run = .running →
      stepOn bus s = execOn bus i (s.withContents c)) ∧
    step s = stepOn (busOf s.cfg) s ∧ exec i s = execOn (busOf s.cfg) i s

/-- 40_step_and_condition.md section 1 and 60_exceptions.md section 2: a word that does not decode takes
the Undefined trap, whatever its condition field and the flags hold, with the whole entry sequence. `c` is
what the fetch left behind the bus; the reference bus leaves it as it was. -/
def Obligations.UndecodableWordTakesUndefinedTrap : Prop :=
  ∀ (s : State) (w : Word) (c : BusContents), wordRead s s.pc w c →
    decodeWord w = .error .unsupportedEncoding → s.run = .running →
    ∃ p : Word,
      step s = .next { s with
        spsrUnd := s.cpsr, r14 := { s.r14 with und := s.pc }, cpsr := p, pc := s.cfg.vecUndef,
        platform := c.platform,
        out := { cycles := s.cfg.cycInsn, service := none,
                 record := some { kind := .undefined, returnAddress := s.pc, targetMode := .undefined } } } ∧
      (s.cfg.bus = .reference → c.platform = s.platform) ∧
      modeField p = 0b11011#5 ∧
      ∀ j, 5 ≤ j → p.getLsbD j = if j = 7 then true else s.cpsr.getLsbD j

/-- 40_step_and_condition.md R133: an instruction whose condition fails changes `pc` alone, for every
instruction. -/
def Obligations.FailedConditionSkips : Prop :=
  ∀ (i : Instr) (s : State), conditionPassed i.cond s.cpsr = false →
    exec i s = .next { s with
      pc := s.pc + 4#32, out := { cycles := s.cfg.cycSkip, record := none, service := none } }

/-- 40_step_and_condition.md section 2 and the matrix of 95_test_vectors.md section 2.1: all 16 conditions
under all 16 flag combinations; nothing else of the status word matters. -/
def Obligations.ConditionTruthTable : Prop :=
  ∀ (c : Cond) (p : Word), conditionPassed c p = (conditionRow c).testBit (bits p 28 4)

/-- 60_exceptions.md R292: any number of steps of a Halted core with the input low changes nothing. -/
def Obligations.HaltedIdleChangesNothing : Prop :=
  ∀ (n : Nat) (s : State), s.run = .halted → s.irqPending = false →
    Sys2Proof.core.run (n + 1) s = .next { s with
      out := { cycles := s.cfg.cycHalted, record := none, service := none } }

/-- 60_exceptions.md section 7: a Halted core whose input is high does in that step what the Running core
does, whatever I and F hold. -/
def Obligations.WakeRunsInTheSameStep : Prop :=
  ∀ s : State, s.run = .halted → s.irqPending = true → step s = step { s with run := .running }

/-- 60_exceptions.md section 7: a Running core ignores the interrupt-pending level completely. -/
def Obligations.RunningIgnoresInterruptLevel : Prop :=
  ∀ (s : State) (level : Bool), s.run = .running →
    (∀ t, step s = .next t → step (setIrqPending level s) = .next (setIrqPending level t)) ∧
    (∀ f, step s = .fault f → step (setIrqPending level s) = .fault f)

/-- 20_memory.md sections 3 to 5, 60_exceptions.md section 5: a fetch to which the bus answers MemoryFault,
on the reference bus (log 9) one that is misaligned or unmapped, ends the step so, before anything else is
looked at. -/
def Obligations.FetchFaultStopsStep : Prop :=
  ∀ s : State, readRefused s s.pc → (s.run = .running ∨ s.irqPending = true) →
    step s = .fault (.memoryFault .fetch 4 s.pc)

/-! ## Data processing -/

/-- 41_data_processing.md sections 3 and 4: the eleven opcodes that write Rd, in every operand form, with a
destination other than r15: the result, and everything the instruction leaves alone. -/
def Obligations.DataProcessingWritesResult : Prop :=
  ∀ (op : DpOp) (c : Cond) (sf : Bool) (rn rd : Reg) (o : Operand2) (s : State) (m : Mode),
    op.isTest = false → rd ≠ 15 → conditionPassed c s.cpsr = true → s.mode = some m →
    ∃ t, exec (Instr.dataProc op c sf rn rd o) s = .next t ∧
      t.readReg m rd = dpResult op (s.readReg m rn) (shifterOperand m o s).value (flagC s.cpsr) ∧
      t.pc = s.pc + 4#32 ∧
      (sf = false → t.cpsr = s.cpsr) ∧ bits t.cpsr 0 28 = bits s.cpsr 0 28 ∧
      RegistersKept m [rd] s t ∧ MemoryKept s t ∧ SystemKept s t ∧ t.out = okOutput s

/-- 41_data_processing.md sections 3 and 4: the flags of every flag-setting data-processing instruction that
is not an exception return, the four test opcodes included, and of no other status bit. -/
def Obligations.DataProcessingSetsFlags : Prop :=
  ∀ (op : DpOp) (c : Cond) (sf : Bool) (rn rd : Reg) (o : Operand2) (s : State) (m : Mode),
    (op.isTest = true ∨ sf = true) → ¬(op = .mov ∧ rd = 15 ∧ m.privileged = true) →
    conditionPassed c s.cpsr = true → s.mode = some m →
    ∃ t, exec (Instr.dataProc op c sf rn rd o) s = .next t ∧
      (flagN t.cpsr = true ↔ (dpResult op (s.readReg m rn) (shifterOperand m o s).value (flagC s.cpsr)).toInt < 0) ∧
      (flagZ t.cpsr = true ↔ dpResult op (s.readReg m rn) (shifterOperand m o s).value (flagC s.cpsr) = 0#32) ∧
      (flagC t.cpsr = true ↔ dpCarry op (s.readReg m rn) (shifterOperand m o s).value (flagC s.cpsr)
        (shifterOperand m o s).carry) ∧
      (flagV t.cpsr = true ↔ dpOverflow op (s.readReg m rn) (shifterOperand m o s).value (flagC s.cpsr)
        (flagV s.cpsr)) ∧
      bits t.cpsr 0 28 = bits s.cpsr 0 28

/-- 41_data_processing.md section 4: TST, TEQ, CMP and CMN complete in every operand form and write no
register at all, whatever their ignored Rd field holds. -/
def Obligations.TestOpcodesWriteOnlyFlags : Prop :=
  ∀ (op : DpOp) (c : Cond) (sf : Bool) (rn rd : Reg) (o : Operand2) (s : State) (m : Mode),
    op.isTest = true → conditionPassed c s.cpsr = true → s.mode = some m →
    ∃ p, exec (Instr.dataProc op c sf rn rd o) s = .next { s with
        cpsr := p, pc := s.pc + 4#32, out := okOutput s } ∧
      bits p 0 28 = bits s.cpsr 0 28

/-- 41_data_processing.md section 3: a result written to r15 goes to `pc` with no bit cleared when the
instruction is not the exception return; no SPSR is read. -/
def Obligations.DataProcessingIntoPc : Prop :=
  ∀ (op : DpOp) (c : Cond) (sf : Bool) (rn : Reg) (o : Operand2) (s : State) (m : Mode),
    op.isTest = false → ¬(op = .mov ∧ sf = true ∧ m.privileged = true) →
    conditionPassed c s.cpsr = true → s.mode = some m →
    ∃ p, exec (Instr.dataProc op c sf rn 15 o) s = .next { s with
        pc := dpResult op (s.readReg m rn) (shifterOperand m o s).value (flagC s.cpsr),
        cpsr := p, out := okOutput s } ∧
      (sf = false → p = s.cpsr) ∧ bits p 0 28 = bits s.cpsr 0 28

/-- 60_exceptions.md R279: MOV with S and destination r15 in a privileged mode restores the whole `cpsr` from
the SPSR of the mode and sends `pc` to the operand value, in one step; nothing else changes. Through an
SPSR with an unimplemented mode it is a defect. -/
def Obligations.MovsPcReturnsFromTrap : Prop :=
  ∀ (c : Cond) (rn : Reg) (o : Operand2) (s : State),
    conditionPassed c s.cpsr = true →
    (s.mode = some .supervisor → implementedMode (modeField s.spsrSvc) →
      exec (Instr.dataProc .mov c true rn 15 o) s = .next { s with
        cpsr := s.spsrSvc, pc := (shifterOperand .supervisor o s).value, out := okOutput s }) ∧
    (s.mode = some .undefined → implementedMode (modeField s.spsrUnd) →
      exec (Instr.dataProc .mov c true rn 15 o) s = .next { s with
        cpsr := s.spsrUnd, pc := (shifterOperand .undefined o s).value, out := okOutput s }) ∧
    (s.mode = some .supervisor → ¬ implementedMode (modeField s.spsrSvc) →
      exec (Instr.dataProc .mov c true rn 15 o) s = .fault (.defect .spsrMode)) ∧
    (s.mode = some .undefined → ¬ implementedMode (modeField s.spsrUnd) →
      exec (Instr.dataProc .mov c true rn 15 o) s = .fault (.defect .spsrMode))

/-- 41_data_processing.md section 1 (R152): the rotated immediate, bit by bit, and its carry-out. -/
def Obligations.RotatedImmediateOperand : Prop :=
  ∀ (m : Mode) (rot : Fin 16) (imm8 : Byte) (s : State),
    (∀ j, j < 32 → (shifterOperand m (.imm rot imm8) s).value.getLsbD j =
      imm8.getLsbD ((j + 2 * rot.val) % 32)) ∧
    (shifterOperand m (.imm rot imm8) s).carry =
      (if rot.val = 0 then flagC s.cpsr else (shifterOperand m (.imm rot imm8) s).value.getLsbD 31)

/-- 41_data_processing.md section 1 (R153): a register shifted by an immediate amount, every row of the
table, by exact arithmetic on the register's value, which is `pc` plus 8 for r15. -/
def Obligations.ShiftByImmediateTable : Prop :=
  ∀ (mode : Mode) (rm : Reg) (n : Fin 32) (s : State),
    let m := s.readReg mode rm
    let sh := fun ty => shifterOperand mode (.regImm rm ty n) s
    (rm = 15 → m = s.pc + 8#32) ∧
    (n.val = 0 → sh .lsl = { value := m, carry := flagC s.cpsr }) ∧
    (0 < n.val → (sh .lsl).value.toNat = m.toNat * 2 ^ n.val % 2 ^ 32 ∧
      (sh .lsl).carry = decide (m.toNat / 2 ^ (32 - n.val) % 2 = 1)) ∧
    (n.val = 0 → sh .lsr = { value := 0#32, carry := decide (2 ^ 31 ≤ m.toNat) }) ∧
    (0 < n.val → (sh .lsr).value.toNat = m.toNat / 2 ^ n.val ∧
      (sh .lsr).carry = decide (m.toNat / 2 ^ (n.val - 1) % 2 = 1)) ∧
    (n.val = 0 → (sh .asr).value.toInt = (if m.toInt < 0 then -1 else 0) ∧
      (sh .asr).carry = decide (m.toInt < 0)) ∧
    (0 < n.val → (sh .asr).value.toInt = m.toInt / 2 ^ n.val ∧
      (sh .asr).carry = decide (m.toNat / 2 ^ (n.val - 1) % 2 = 1)) ∧
    (n.val = 0 → (sh .ror).value.toNat = (flagC s.cpsr).toNat * 2 ^ 31 + m.toNat / 2 ∧
      (sh .ror).carry = decide (m.toNat % 2 = 1)) ∧
    (0 < n.val → (∀ j, j < 32 → (sh .ror).value.getLsbD j = m.getLsbD ((j + n.val) % 32)) ∧
      (sh .ror).carry = m.getLsbD (n.val - 1))

/-- 41_data_processing.md section 1 (R154): a register shifted by the low byte of a register, every row of
the table; amounts of 32 and more are defined. -/
def Obligations.ShiftByRegisterTable : Prop :=
  ∀ (mode : Mode) (rm rs : Reg) (s : State),
    let m := s.readReg mode rm
    let n := (s.readReg mode rs).toNat % 256
    let sh := fun ty => shifterOperand mode (.regReg rm ty rs) s
    (n = 0 → ∀ ty, sh ty = { value := m, carry := flagC s.cpsr }) ∧
    (0 < n → (sh .lsl).value.toNat = m.toNat * 2 ^ n % 2 ^ 32 ∧
      (sh .lsl).carry = decide (n ≤ 32 ∧ m.toNat / 2 ^ (32 - n) % 2 = 1)) ∧
    (0 < n → (sh .lsr).value.toNat = m.toNat / 2 ^ n ∧
      (sh .lsr).carry = decide (m.toNat / 2 ^ (n - 1) % 2 = 1)) ∧
    (0 < n → (sh .asr).value.toInt = m.toInt / 2 ^ n ∧
      (sh .asr).carry = decide (m.toInt / 2 ^ (n - 1) % 2 = 1)) ∧
    (0 < n → (∀ j, j < 32 → (sh .ror).value.getLsbD j = m.getLsbD ((j + n) % 32)) ∧
      (sh .ror).carry = m.getLsbD ((n + 31) % 32))

/-- 41_data_processing.md section 2 (R158): AddWithCarry is the exact sum, its two overflow forms agree, and
after a subtraction the carry says that no borrow occurred. -/
def Obligations.AddWithCarryLaws : Prop :=
  ∀ (a b : Word) (c : Bool),
    (addWithCarry a b c).result.toNat = (a.toNat + b.toNat + c.toNat) % 2 ^ 32 ∧
    ((addWithCarry a b c).carry = true ↔ 2 ^ 32 ≤ a.toNat + b.toNat + c.toNat) ∧
    ((addWithCarry a b c).overflow = true ↔
      a.toInt + b.toInt + (c.toNat : Int) ≠ (addWithCarry a b c).result.toInt) ∧
    ((addWithCarry a b c).overflow = true ↔
      (a.msb = b.msb ∧ (addWithCarry a b c).result.msb ≠ a.msb)) ∧
    (addWithCarry a (~~~b) true).result = a - b ∧
    ((addWithCarry a (~~~b) true).carry = true ↔ b.toNat ≤ a.toNat)

/-! ## Branches -/

/-- 42_branch.md: B adds eight and four times the signed offset to its own address, modulo 2^32, and
changes nothing else. -/
def Obligations.BranchReachesTarget : Prop :=
  ∀ (c : Cond) (imm24 : BitVec 24) (s : State), conditionPassed c s.cpsr = true →
    exec (.b c imm24) s = .next { s with
      pc := BitVec.ofInt 32 ((s.pc.toNat : Int) + 8 + 4 * imm24.toInt), out := okOutput s }

/-- 42_branch.md: BL does the same and leaves the address after it in r14 of the current mode alone. -/
def Obligations.BranchWithLinkSavesReturn : Prop :=
  ∀ (c : Cond) (imm24 : BitVec 24) (s : State) (m : Mode), conditionPassed c s.cpsr = true →
    s.mode = some m →
    exec (.bl c imm24) s = .next { s with
      r14 := s.r14.set m (s.pc + 4#32),
      pc := BitVec.ofInt 32 ((s.pc.toNat : Int) + 8 + 4 * imm24.toInt), out := okOutput s }

/-- 42_branch.md: BX records bit 0 of its operand in T, clears that bit alone in the target, and touches no
other bit of the status word. -/
def Obligations.BranchExchangeRecordsT : Prop :=
  ∀ (c : Cond) (rm : Reg) (s : State) (m : Mode), conditionPassed c s.cpsr = true → s.mode = some m →
    ∃ p q, exec (.bx c rm) s = .next { s with cpsr := p, pc := q, out := okOutput s } ∧
      q.toNat = (s.readReg m rm).toNat / 2 * 2 ∧
      ∀ j, p.getLsbD j = if j = 5 then (s.readReg m rm).getLsbD 0 else s.cpsr.getLsbD j

/-! ## Loads and stores -/

/-- 43_load_store.md section 1: the updated address is base plus or minus the unsigned offset modulo 2^32;
the access uses it in the offset and pre-indexed modes and the unmodified base when post-indexed. -/
def Obligations.AddressingModes : Prop :=
  ∀ (base : Word) (up : Bool) (off : BitVec 12),
    updatedAddress base up off =
      BitVec.ofInt 32 ((base.toNat : Int) + (if up then (off.toNat : Int) else -(off.toNat : Int))) ∧
    accessAddress .offset base up off = updatedAddress base up off ∧
    accessAddress .preIndexed base up off = updatedAddress base up off ∧
    accessAddress .postIndexed base up off = base

/-- 43_load_store.md section 2: LDR in its three modes puts the word that the bus reads at the access address
in Rd and the updated address in the base register when the mode writes back; the rest is as before, on
the reference bus memory as well. -/
def Obligations.LoadWordCompletes : Prop :=
  ∀ (ix : Index) (c : Cond) (up : Bool) (rn rd : Reg) (off : BitVec 12) (s : State) (m : Mode) (v : Word)
    (d : BusContents),
    (Instr.memXfer true ix c up rn rd off).wf = true → rd ≠ 15 →
    conditionPassed c s.cpsr = true → s.mode = some m →
    wordRead s (accessAddress ix (s.readReg m rn) up off) v d →
    ∃ t, exec (Instr.memXfer true ix c up rn rd off) s = .next t ∧
      t.readReg m rd = v ∧
      (ix ≠ .offset → t.readReg m rn = updatedAddress (s.readReg m rn) up off) ∧
      t.pc = s.pc + 4#32 ∧ t.cpsr = s.cpsr ∧
      RegistersKept m (if ix = .offset then [rd] else [rd, rn]) s t ∧
      t.contents = d ∧ (s.cfg.bus = .reference → MemoryKept s t) ∧ SystemKept s t ∧ t.out = okOutput s

/-- 43_load_store.md section 2: LDR with destination r15 sends `pc` to the loaded word, no bit cleared, T
unchanged; the writeback happens as well. -/
def Obligations.LoadIntoPc : Prop :=
  ∀ (ix : Index) (c : Cond) (up : Bool) (rn : Reg) (off : BitVec 12) (s : State) (m : Mode) (v : Word)
    (d : BusContents),
    (Instr.memXfer true ix c up rn 15 off).wf = true →
    conditionPassed c s.cpsr = true → s.mode = some m →
    wordRead s (accessAddress ix (s.readReg m rn) up off) v d →
    ∃ t, exec (Instr.memXfer true ix c up rn 15 off) s = .next t ∧
      t.pc = v ∧ t.cpsr = s.cpsr ∧
      (ix ≠ .offset → t.readReg m rn = updatedAddress (s.readReg m rn) up off) ∧
      RegistersKept m (if ix = .offset then [] else [rn]) s t ∧
      t.contents = d ∧ (s.cfg.bus = .reference → MemoryKept s t) ∧ SystemKept s t ∧ t.out = okOutput s

/-- 43_load_store.md section 2: STR in its three modes writes Rd (r15 reads as its address plus 8) to the bus
at the access address, on the reference bus little-endian and with no other byte changed, and writes the
base back when the mode says so. -/
def Obligations.StoreWordCompletes : Prop :=
  ∀ (ix : Index) (c : Cond) (up : Bool) (rn rd : Reg) (off : BitVec 12) (s : State) (m : Mode) (a v : Word),
    (Instr.memXfer false ix c up rn rd off).wf = true →
    conditionPassed c s.cpsr = true → s.mode = some m →
    accessAddress ix (s.readReg m rn) up off = a →
    v = (if rd = 15 then s.pc + 8#32 else s.readReg m rd) → writeAccepted s a v →
    ∃ t, exec (Instr.memXfer false ix c up rn rd off) s = .next t ∧
      wordWritten s t a v ∧
      (ix ≠ .offset → t.readReg m rn = updatedAddress (s.readReg m rn) up off) ∧
      t.pc = s.pc + 4#32 ∧ t.cpsr = s.cpsr ∧
      RegistersKept m (if ix = .offset then [] else [rn]) s t ∧
      SystemKept s t ∧ t.out = okOutput s

/-- 43_load_store.md section 3 and 20_memory.md section 4: an access to which the bus answers MemoryFault ends
the instruction so; a fault carries no new state. That the reference bus (R70, log 9) answers MemoryFault
for a misaligned or unmapped address is 20_memory.md sections 3 (R64) and 5 (R70). -/
def Obligations.BusFaultStopsTransfer : Prop :=
  ∀ (load : Bool) (ix : Index) (c : Cond) (up : Bool) (rn rd : Reg) (off : BitVec 12) (s : State) (m : Mode),
    conditionPassed c s.cpsr = true → s.mode = some m →
    (if load then readRefused s (accessAddress ix (s.readReg m rn) up off)
      else ¬ writeAccepted s (accessAddress ix (s.readReg m rn) up off) (s.readReg m rd)) →
    exec (Instr.memXfer load ix c up rn rd off) s =
      .fault (.memoryFault (if load then .load else .store) 4 (accessAddress ix (s.readReg m rn) up off))

/-- The model's choice (log 3), which 70_reset_and_hazards.md section 1 allows: a load of memory that nothing
has written stops; on the reference bus that is a mapped word of which a byte was never written, whatever
is in the other bytes. -/
def Obligations.LoadOfUnwrittenMemoryStops : Prop :=
  ∀ (ix : Index) (c : Cond) (up : Bool) (rn rd : Reg) (off : BitVec 12) (s : State) (m : Mode),
    conditionPassed c s.cpsr = true → s.mode = some m →
    readUnwritten s (accessAddress ix (s.readReg m rn) up off) →
    exec (Instr.memXfer true ix c up rn rd off) s =
      .fault (.unwrittenMemory .load 4 (accessAddress ix (s.readReg m rn) up off))

/-- 20_memory.md sections 5 and 7: on the reference bus (log 9), after a word write, a word read of the same
address gives the written value, and of any other aligned address what it gave before; the bytes and
halfwords of the word read back little-endian; a read has no side effect. -/
def Obligations.WordReadAfterWordWrite : Prop :=
  ∀ (a v b : Word) (k : AccessKind) (s t : State), s.cfg.bus = .reference →
    memWrite (busOf s.cfg) a v s = .ok t →
    memRead (busOf s.cfg) k a t = .ok (v, t) ∧
    (b ≠ a → ∀ x, memRead (busOf s.cfg) k b t = .ok (x, t) ↔ memRead (busOf s.cfg) k b s = .ok (x, s)) ∧
    (∀ j, j < 4 → (busOf s.cfg).read8 (a + BitVec.ofNat 32 j) t.contents =
      .value (v.extractLsb' (8 * j) 8, t.contents)) ∧
    (∀ j, j < 2 → (busOf s.cfg).read16 (a + BitVec.ofNat 32 (2 * j)) t.contents =
      .value (v.extractLsb' (16 * j) 16, t.contents)) ∧
    (∀ x u, memRead (busOf s.cfg) k b s = .ok (x, u) → u = s)

/-- 20_memory.md section 7: on the reference bus (log 9) a stored word is what the fetch of that address
gives next, with no barrier. -/
def Obligations.StoredWordIsFetched : Prop :=
  ∀ (ix : Index) (c : Cond) (up : Bool) (rn rd : Reg) (off : BitVec 12) (s t : State) (m : Mode),
    s.cfg.bus = .reference → conditionPassed c s.cpsr = true → s.mode = some m →
    exec (Instr.memXfer false ix c up rn rd off) s = .next t →
    let u := { t with pc := accessAddress ix (s.readReg m rn) up off }
    fetch (busOf u.cfg) u = .ok (s.readReg m rd, u)

/-! ## Multiplication -/

/-- 44_multiply.md: MUL and MLA give the exact product (plus accumulator) reduced modulo 2^32, the same for
signed and unsigned factors; with S they set N and Z from it and leave C and V; without S the status
word is as before; the cost is that of every instruction. -/
def Obligations.MultiplyResultAndFlags : Prop :=
  ∀ (c : Cond) (sf : Bool) (rd rn rs rm : Reg) (s : State) (m : Mode), rd ≠ 15 →
    conditionPassed c s.cpsr = true → s.mode = some m →
    (∃ t, exec (.mul c sf rd rn rs rm) s = .next t ∧
      (t.readReg m rd).toNat = (s.readReg m rm).toNat * (s.readReg m rs).toNat % 2 ^ 32 ∧
      t.readReg m rd = BitVec.ofInt 32 ((s.readReg m rm).toInt * (s.readReg m rs).toInt) ∧
      (sf = true → (flagN t.cpsr = true ↔ 2 ^ 31 ≤ (t.readReg m rd).toNat) ∧
        (flagZ t.cpsr = true ↔ (t.readReg m rd).toNat = 0)) ∧
      (sf = false → t.cpsr = s.cpsr) ∧ bits t.cpsr 0 30 = bits s.cpsr 0 30 ∧
      t.pc = s.pc + 4#32 ∧ RegistersKept m [rd] s t ∧ MemoryKept s t ∧ SystemKept s t ∧ t.out = okOutput s) ∧
    (∃ t, exec (.mla c sf rd rn rs rm) s = .next t ∧
      (t.readReg m rd).toNat =
        ((s.readReg m rm).toNat * (s.readReg m rs).toNat + (s.readReg m rn).toNat) % 2 ^ 32 ∧
      t.readReg m rd =
        BitVec.ofInt 32 ((s.readReg m rm).toInt * (s.readReg m rs).toInt + (s.readReg m rn).toInt) ∧
      (sf = true → (flagN t.cpsr = true ↔ 2 ^ 31 ≤ (t.readReg m rd).toNat) ∧
        (flagZ t.cpsr = true ↔ (t.readReg m rd).toNat = 0)) ∧
      (sf = false → t.cpsr = s.cpsr) ∧ bits t.cpsr 0 30 = bits s.cpsr 0 30 ∧
      t.pc = s.pc + 4#32 ∧ RegistersKept m [rd] s t ∧ MemoryKept s t ∧ SystemKept s t ∧ t.out = okOutput s)

/-! ## System instructions -/

/-- 45_system.md: MRS copies the whole status word in every mode, and the SPSR of the current privileged
mode; it changes nothing but Rd. -/
def Obligations.MrsReadsStatusWords : Prop :=
  ∀ (c : Cond) (sp : Bool) (rd : Reg) (s : State) (m : Mode), rd ≠ 15 →
    conditionPassed c s.cpsr = true → s.mode = some m → (sp = true → m ≠ .user) →
    ∃ t, exec (.mrs c sp rd) s = .next t ∧
      t.readReg m rd = (if sp = false then s.cpsr else if m = .supervisor then s.spsrSvc else s.spsrUnd) ∧
      t.cpsr = s.cpsr ∧ t.pc = s.pc + 4#32 ∧
      RegistersKept m [rd] s t ∧ MemoryKept s t ∧ SystemKept s t ∧ t.out = okOutput s

/-- 45_system.md: MSR writes the flags under mask bit f and the mode field under mask bit c in a privileged
mode, no other bit of the status word and nothing else; in User mode the mode write is ignored. -/
def Obligations.MsrWritesFlagsAndMode : Prop :=
  ∀ (c : Cond) (mask : BitVec 4) (rm : Reg) (s : State) (m : Mode),
    conditionPassed c s.cpsr = true → s.mode = some m →
    (mask.getLsbD 0 = true → m ≠ .user → implementedMode (modeField (s.readReg m rm))) →
    ∃ p, exec (.msr c mask rm) s = .next { s with cpsr := p, pc := s.pc + 4#32, out := okOutput s } ∧
      ∀ j, j < 32 → p.getLsbD j =
        if 28 ≤ j ∧ mask.getLsbD 3 = true then (s.readReg m rm).getLsbD j
        else if j < 5 ∧ mask.getLsbD 0 = true ∧ m ≠ .user then (s.readReg m rm).getLsbD j
        else s.cpsr.getLsbD j

/-- 45_system.md and 60_exceptions.md sections 2 and 9: SWI enters the SoftwareInterrupt trap in every mode,
with the saved status and return address, the new mode and I, and the two records it returns. -/
def Obligations.SwiEntersSupervisorTrap : Prop :=
  ∀ (c : Cond) (n : BitVec 24) (s : State), conditionPassed c s.cpsr = true →
    ∃ p : Word,
      exec (.swi c n) s = .next { s with
        spsrSvc := s.cpsr, r14 := { s.r14 with svc := s.pc + 4#32 }, cpsr := p, pc := s.cfg.vecSwi,
        out := {
          cycles := s.cfg.cycInsn
          record := some { kind := .softwareInterrupt, returnAddress := s.pc + 4#32, targetMode := .supervisor }
          service := some { number := n, regs := s.r.toList ++ [s.r13.svc, s.pc + 4#32, s.cfg.vecSwi] } } } ∧
      modeField p = 0b10011#5 ∧
      ∀ j, 5 ≤ j → p.getLsbD j = if j = 7 then true else s.cpsr.getLsbD j

/-- 45_system.md R250: WFI halts whatever the interrupt-pending level is, and `pc` moves to the next word. -/
def Obligations.WfiHaltsAtNextInstruction : Prop :=
  ∀ (c : Cond) (s : State), conditionPassed c s.cpsr = true →
    exec (.wfi c) s = .next { s with run := .halted, pc := s.pc + 4#32, out := okOutput s }

/-! ## The coprocessor bank -/

/-- 46_coprocessor.md: MRC of an implemented register puts its value in Rd, in every mode, and changes
nothing else. -/
def Obligations.CoprocessorReadCompletes : Prop :=
  ∀ (c : Cond) (id : Cp15Id) (rd : Reg) (s : State) (m : Mode) (reset v : Word), rd ≠ 15 →
    conditionPassed c s.cpsr = true → s.mode = some m →
    cellGet (cp15Number id) s.cfg.cp15 = some reset → cellGet (cp15Number id) s.cp15 = some v →
    ∃ t, exec (.mrc c id rd) s = .next t ∧ t.readReg m rd = v ∧
      t.cpsr = s.cpsr ∧ t.pc = s.pc + 4#32 ∧
      RegistersKept m [rd] s t ∧ MemoryKept s t ∧ SystemKept s t ∧ t.out = okOutput s

/-- 46_coprocessor.md: MCR to an implemented register stores all 32 bits of Rd, leaves every other register
of the bank, and has no effect outside it. -/
def Obligations.CoprocessorWriteCompletes : Prop :=
  ∀ (c : Cond) (id : Cp15Id) (rd : Reg) (s : State) (m : Mode) (reset : Word),
    conditionPassed c s.cpsr = true → s.mode = some m →
    cellGet (cp15Number id) s.cfg.cp15 = some reset →
    ∃ b, exec (.mcr c id rd) s = .next { s with cp15 := b, pc := s.pc + 4#32, out := okOutput s } ∧
      ∀ k, cellGet k b = if k = cp15Number id then some (s.readReg m rd) else cellGet k s.cp15

/-- 46_coprocessor.md: MRC and MCR of an identifier outside the implemented set end the step with
UnsupportedCoprocessorRegister, never with a silent zero. -/
def Obligations.UnimplementedCoprocessorRegisterFaults : Prop :=
  ∀ (c : Cond) (id : Cp15Id) (rd : Reg) (s : State) (m : Mode),
    conditionPassed c s.cpsr = true → s.mode = some m → cellGet (cp15Number id) s.cfg.cp15 = none →
    exec (.mrc c id rd) s = .fault (.unsupportedCoprocessorRegister id) ∧
    exec (.mcr c id rd) s = .fault (.unsupportedCoprocessorRegister id)

/-- 10_state.md section 6: an MCR followed by an MRC of the same identifier returns exactly the value
written. -/
def Obligations.CoprocessorRoundTrip : Prop :=
  ∀ (c : Cond) (id : Cp15Id) (rd rd' : Reg) (s t : State) (m : Mode), rd' ≠ 15 →
    conditionPassed c s.cpsr = true → s.mode = some m → exec (.mcr c id rd) s = .next t →
    ∃ u, exec (.mrc c id rd') t = .next u ∧ u.readReg m rd' = s.readReg m rd

/-- 10_state.md section 6: different identifiers are different registers of the bank. -/
def Obligations.CoprocessorIdentifiersAreDistinct : Prop :=
  ∀ i j : Cp15Id, (cp15Number i = cp15Number j → i = j) ∧ cp15Number i < 2 ^ 14

/-! ## The whole machine -/

/-- 10_state.md sections 4 to 6 and 20_memory.md section 5: every step keeps the invariant. -/
def Obligations.StepKeepsInvariant : Prop :=
  ∀ s t : State, Inv s → step s = .next t → Inv t

/-- 10_state.md section 8: the invariant holds after reset, for every choice of the open parameters that R7
allows and of the unspecified values that R46 allows, and of `State.reset` (whose named values are the
model's choice, logs 1 and 2). -/
def Obligations.ResetSatisfiesInvariant : Prop :=
  Inv State.reset ∧
  ∀ (s : State) (d : ResetDraw), configOk s.cfg → drawOk d → Memory.wf s.mem → Inv (resetInput d s)

/-- 60_exceptions.md section 6: nothing but a trap leaves User mode, and a trap leaves it for its target. -/
def Obligations.UserModeLeftOnlyByTrap : Prop :=
  ∀ s t : State, s.mode = some .user → step s = .next t →
    (t.out.record = none ∧ t.mode = some .user) ∨
    (∃ e, t.out.record = some e ∧ t.mode = some e.targetMode ∧ e.targetMode ≠ .user)

/-- 10_state.md section 2: a step never touches r13 or r14 of another mode, but for the return address a
trap banks in r14 of its target mode. -/
def Obligations.BanksOfOtherModesKept : Prop :=
  ∀ (s t : State) (m m' : Mode), s.mode = some m → m' ≠ m → step s = .next t →
    t.r13.get m' = s.r13.get m' ∧
    (t.r14.get m' = s.r14.get m' ∨
      ∃ e, t.out.record = some e ∧ e.targetMode = m' ∧ t.r14.get m' = e.returnAddress)

/-- 10_state.md section 5: an SPSR is written by trap entry into its mode alone, with the whole status word
of before the trap. -/
def Obligations.SpsrWrittenOnlyByTrapEntry : Prop :=
  ∀ s t : State, step s = .next t →
    (t.spsrSvc = s.spsrSvc ∨
      ∃ e, t.out.record = some e ∧ e.targetMode = .supervisor ∧ t.spsrSvc = s.cpsr) ∧
    (t.spsrUnd = s.spsrUnd ∨
      ∃ e, t.out.record = some e ∧ e.targetMode = .undefined ∧ t.spsrUnd = s.cpsr)

/-- 10_state.md section 6: the coprocessor bank is mutated by MCR alone. -/
def Obligations.BankMutatedOnlyByMcr : Prop :=
  ∀ (i : Instr) (s t : State), exec i s = .next t → (∀ c id rd, i ≠ .mcr c id rd) → t.cp15 = s.cp15

/-- 20_memory.md sections 1, 4 and 5: the reference bus's memory is changed by STR alone; no instruction but
LDR and STR changes anything behind the bus, whichever bus it is. -/
def Obligations.MemoryChangedOnlyByStore : Prop :=
  ∀ (i : Instr) (s t : State), exec i s = .next t →
    (∀ ix c up rn rd off, i ≠ Instr.memXfer false ix c up rn rd off) →
    t.mem = s.mem ∧
    ((∀ ix c up rn rd off, i ≠ Instr.memXfer true ix c up rn rd off) → t.contents = s.contents)

/-- 10_state.md section 4: the condition flags are written by flag-setting data processing, MUL and MLA with
S, MSR and the exception return alone; every other instruction, SWI included, leaves all four. -/
def Obligations.FlagsKeptByOtherInstructions : Prop :=
  ∀ (i : Instr) (s t : State), exec i s = .next t →
    (∀ op c rn rd o, i ≠ Instr.dataProc op c true rn rd o) →
    (∀ c rd rn rs rm, i ≠ .mul c true rd rn rs rm) → (∀ c rd rn rs rm, i ≠ .mla c true rd rn rs rm) →
    (∀ c k rm, i ≠ .msr c k rm) →
    bits t.cpsr 28 4 = bits s.cpsr 28 4

/-- 10_state.md section 4: F changes only at an exception return, T only at one or at BX, I only at one or
by a trap, which sets it. -/
def Obligations.MaskBitWriters : Prop :=
  ∀ (i : Instr) (s t : State), exec i s = .next t → (∀ c rn o, i ≠ Instr.dataProc .mov c true rn 15 o) →
    t.cpsr.getLsbD 6 = s.cpsr.getLsbD 6 ∧
    (t.cpsr.getLsbD 5 = s.cpsr.getLsbD 5 ∨ ∃ c rm, i = .bx c rm) ∧
    (t.cpsr.getLsbD 7 = s.cpsr.getLsbD 7 ∨ (t.out.record.isSome = true ∧ t.cpsr.getLsbD 7 = true))

/-- 40_step_and_condition.md section 3: an instruction that is no branch, no SWI and does not write r15
leaves `pc` four further, modulo 2^32. -/
def Obligations.PcAdvancesUnlessRedirected : Prop :=
  ∀ (i : Instr) (s t : State), i.wf = true → exec i s = .next t →
    (∀ c n, i ≠ .b c n) → (∀ c n, i ≠ .bl c n) → (∀ c rm, i ≠ .bx c rm) → (∀ c n, i ≠ .swi c n) →
    (∀ op c sf rn o, op.isTest = false → i ≠ Instr.dataProc op c sf rn 15 o) →
    (∀ ix c up rn off, i ≠ Instr.memXfer true ix c up rn 15 off) →
    t.pc = s.pc + 4#32

/-- 10_state.md section 7: a Running core halts only by a WFI that passes its condition; a Halted core runs
again only when the step sampled the input high. -/
def Obligations.RunStateTransitions : Prop :=
  ∀ s t : State, step s = .next t →
    (s.run = .running → t.run = .halted →
      ∃ w u c, fetch (busOf s.cfg) s = .ok (w, u) ∧ decodeWord w = .ok (.wfi c) ∧ conditionPassed c s.cpsr = true) ∧
    (s.run = .halted → t.run = .running → s.irqPending = true)

/-- 60_exceptions.md section 4: a defect is reached in exactly three ways, each under a passed condition: MSR
of an unimplemented mode value under mask bit c in a privileged mode; the exception return through an SPSR
with an unimplemented mode; MRS of the SPSR in User mode. -/
def Obligations.DefectsAreExactlyThree : Prop :=
  ∀ (i : Instr) (s : State) (m : Mode) (r : DefectReason), s.mode = some m →
    (exec i s = .fault (.defect r) ↔
      conditionPassed i.cond s.cpsr = true ∧
      ((∃ c mask rm, i = .msr c mask rm ∧ mask.getLsbD 0 = true ∧ m ≠ .user ∧
          ¬ implementedMode (modeField (s.readReg m rm)) ∧ r = .msrMode) ∨
       (∃ c rn o, i = Instr.dataProc .mov c true rn 15 o ∧ m ≠ .user ∧
          ¬ implementedMode (modeField (if m = .supervisor then s.spsrSvc else s.spsrUnd)) ∧ r = .spsrMode) ∨
       (∃ c rd, i = .mrs c true rd ∧ m = .user ∧ r = .noSpsr)))

/-- 60_exceptions.md sections 1 and 4: a trap record comes from SWI alone among the instructions; a bus fault
from LDR and STR alone, each with its own access kind; an unsupported identifier from MRC and MCR alone. -/
def Obligations.EventsComeFromTheirInstructions : Prop :=
  ∀ (i : Instr) (s : State),
    (∀ t, exec i s = .next t → t.out.record.isSome = true → ∃ c n, i = .swi c n) ∧
    (∀ k w a, exec i s = .fault (.memoryFault k w a) → w = 4 ∧ ∃ ix c up rn rd off,
      (k = .load ∧ i = Instr.memXfer true ix c up rn rd off) ∨
      (k = .store ∧ i = Instr.memXfer false ix c up rn rd off)) ∧
    (∀ id, exec i s = .fault (.unsupportedCoprocessorRegister id) →
      ∃ c rd, i = .mrc c id rd ∨ i = .mcr c id rd)

/-- 10_state.md sections 2 and 3: a write of a register is read back in its own view, leaves every other
register of that view, and is seen in another mode's view for r0 to r12 but not for r13 and r14; r15
reads as `pc` plus 8 in every mode. -/
def Obligations.RegisterViews : Prop :=
  ∀ (s : State) (m : Mode) (i : Reg) (v : Word),
    s.readReg m 15 = s.pc + 8#32 ∧
    (i ≠ 15 → (s.writeReg m i v).readReg m i = v ∧
      (∀ j, j ≠ i → (s.writeReg m i v).readReg m j = s.readReg m j) ∧
      ∀ m', m' ≠ m → (s.writeReg m i v).readReg m' i = if i.val < 13 then v else s.readReg m' i)

/-- 10_state.md section 8 and 70_reset_and_hazards.md section 1: what reset puts in the core, the values
that reset leaves unspecified being any draw `d`; memory and the input are not touched; and the
default parameters' entry point and status word. -/
def Obligations.ResetPutsTheResetValues : Prop :=
  (∀ (d : ResetDraw) (s : State),
    resetInput d s = { s with
      r := d.r, r13 := d.r13, r14 := d.r14, pc := s.cfg.resetPc, cpsr := s.cfg.resetCpsr,
      spsrSvc := d.spsrSvc, spsrUnd := d.spsrUnd, cp15 := s.cfg.cp15, run := .running,
      out := { cycles := 0, record := none, service := none } }) ∧
  State.reset.pc = 0x00000000#32 ∧ State.reset.cpsr = 0x000000D3#32 ∧ State.reset.run = .running ∧
  (∀ id v, State.reset.readCp15 id = some v → v = 0#32)

/-- 60_exceptions.md section 9: the host's write-back does nothing unless the last step returned a
service-call record, and never touches `pc`, `cpsr`, an SPSR, another mode's registers, the bank, the
run state or memory. -/
def Obligations.HostWriteBackWindow : Prop :=
  ∀ (ws : List (HostRegister × Word)) (s : State),
    (s.out.service = none → hostWriteBack ws s = s) ∧
    ∃ (r : Vector Word 13) (r13s r14s : Word), hostWriteBack ws s = { s with
      r := r, r13 := { s.r13 with svc := r13s }, r14 := { s.r14 with svc := r14s } }
end

