-- ==== Sys2Proof/Laws/State.lean ====
section
/-! SUPPORT. One lemma per field per named update of the state, so that no later proof unfolds a record
update. -/

namespace Sys2Proof.Machine

/-! `advance` -/

@[simp] theorem State.advance_r (s : State) : (s.advance).r = s.r := rfl
@[simp] theorem State.advance_r13 (s : State) : (s.advance).r13 = s.r13 := rfl
@[simp] theorem State.advance_r14 (s : State) : (s.advance).r14 = s.r14 := rfl
@[simp] theorem State.advance_pc (s : State) : (s.advance).pc = s.pc + 4#32 := rfl
@[simp] theorem State.advance_cpsr (s : State) : (s.advance).cpsr = s.cpsr := rfl
@[simp] theorem State.advance_spsrSvc (s : State) : (s.advance).spsrSvc = s.spsrSvc := rfl
@[simp] theorem State.advance_spsrUnd (s : State) : (s.advance).spsrUnd = s.spsrUnd := rfl
@[simp] theorem State.advance_cp15 (s : State) : (s.advance).cp15 = s.cp15 := rfl
@[simp] theorem State.advance_run (s : State) : (s.advance).run = s.run := rfl
@[simp] theorem State.advance_mem (s : State) : (s.advance).mem = s.mem := rfl
@[simp] theorem State.advance_platform (s : State) : (s.advance).platform = s.platform := rfl
@[simp] theorem State.advance_irqPending (s : State) : (s.advance).irqPending = s.irqPending := rfl
@[simp] theorem State.advance_out (s : State) : (s.advance).out = s.out := rfl
@[simp] theorem State.advance_cfg (s : State) : (s.advance).cfg = s.cfg := rfl

/-! `redirect` -/

@[simp] theorem State.redirect_r (s : State) (v : Word) : (s.redirect v).r = s.r := rfl
@[simp] theorem State.redirect_r13 (s : State) (v : Word) : (s.redirect v).r13 = s.r13 := rfl
@[simp] theorem State.redirect_r14 (s : State) (v : Word) : (s.redirect v).r14 = s.r14 := rfl
@[simp] theorem State.redirect_pc (s : State) (v : Word) : (s.redirect v).pc = v := rfl
@[simp] theorem State.redirect_cpsr (s : State) (v : Word) : (s.redirect v).cpsr = s.cpsr := rfl
@[simp] theorem State.redirect_spsrSvc (s : State) (v : Word) : (s.redirect v).spsrSvc = s.spsrSvc := rfl
@[simp] theorem State.redirect_spsrUnd (s : State) (v : Word) : (s.redirect v).spsrUnd = s.spsrUnd := rfl
@[simp] theorem State.redirect_cp15 (s : State) (v : Word) : (s.redirect v).cp15 = s.cp15 := rfl
@[simp] theorem State.redirect_run (s : State) (v : Word) : (s.redirect v).run = s.run := rfl
@[simp] theorem State.redirect_mem (s : State) (v : Word) : (s.redirect v).mem = s.mem := rfl
@[simp] theorem State.redirect_platform (s : State) (v : Word) : (s.redirect v).platform = s.platform := rfl
@[simp] theorem State.redirect_irqPending (s : State) (v : Word) : (s.redirect v).irqPending = s.irqPending := rfl
@[simp] theorem State.redirect_out (s : State) (v : Word) : (s.redirect v).out = s.out := rfl
@[simp] theorem State.redirect_cfg (s : State) (v : Word) : (s.redirect v).cfg = s.cfg := rfl

/-! `report` -/

@[simp] theorem State.report_r (s : State) (n : Nat) (e : Option ExceptionRecord) (c : Option ServiceCall) : (s.report n e c).r = s.r := rfl
@[simp] theorem State.report_r13 (s : State) (n : Nat) (e : Option ExceptionRecord) (c : Option ServiceCall) : (s.report n e c).r13 = s.r13 := rfl
@[simp] theorem State.report_r14 (s : State) (n : Nat) (e : Option ExceptionRecord) (c : Option ServiceCall) : (s.report n e c).r14 = s.r14 := rfl
@[simp] theorem State.report_pc (s : State) (n : Nat) (e : Option ExceptionRecord) (c : Option ServiceCall) : (s.report n e c).pc = s.pc := rfl
@[simp] theorem State.report_cpsr (s : State) (n : Nat) (e : Option ExceptionRecord) (c : Option ServiceCall) : (s.report n e c).cpsr = s.cpsr := rfl
@[simp] theorem State.report_spsrSvc (s : State) (n : Nat) (e : Option ExceptionRecord) (c : Option ServiceCall) : (s.report n e c).spsrSvc = s.spsrSvc := rfl
@[simp] theorem State.report_spsrUnd (s : State) (n : Nat) (e : Option ExceptionRecord) (c : Option ServiceCall) : (s.report n e c).spsrUnd = s.spsrUnd := rfl
@[simp] theorem State.report_cp15 (s : State) (n : Nat) (e : Option ExceptionRecord) (c : Option ServiceCall) : (s.report n e c).cp15 = s.cp15 := rfl
@[simp] theorem State.report_run (s : State) (n : Nat) (e : Option ExceptionRecord) (c : Option ServiceCall) : (s.report n e c).run = s.run := rfl
@[simp] theorem State.report_mem (s : State) (n : Nat) (e : Option ExceptionRecord) (c : Option ServiceCall) : (s.report n e c).mem = s.mem := rfl
@[simp] theorem State.report_platform (s : State) (n : Nat) (e : Option ExceptionRecord) (c : Option ServiceCall) : (s.report n e c).platform = s.platform := rfl
@[simp] theorem State.report_irqPending (s : State) (n : Nat) (e : Option ExceptionRecord) (c : Option ServiceCall) : (s.report n e c).irqPending = s.irqPending := rfl
@[simp] theorem State.report_out (s : State) (n : Nat) (e : Option ExceptionRecord) (c : Option ServiceCall) : (s.report n e c).out = { cycles := n, record := e, service := c } := rfl
@[simp] theorem State.report_cfg (s : State) (n : Nat) (e : Option ExceptionRecord) (c : Option ServiceCall) : (s.report n e c).cfg = s.cfg := rfl

/-! `completed` -/

@[simp] theorem State.completed_r (s : State) : (s.completed).r = s.r := rfl
@[simp] theorem State.completed_r13 (s : State) : (s.completed).r13 = s.r13 := rfl
@[simp] theorem State.completed_r14 (s : State) : (s.completed).r14 = s.r14 := rfl
@[simp] theorem State.completed_pc (s : State) : (s.completed).pc = s.pc := rfl
@[simp] theorem State.completed_cpsr (s : State) : (s.completed).cpsr = s.cpsr := rfl
@[simp] theorem State.completed_spsrSvc (s : State) : (s.completed).spsrSvc = s.spsrSvc := rfl
@[simp] theorem State.completed_spsrUnd (s : State) : (s.completed).spsrUnd = s.spsrUnd := rfl
@[simp] theorem State.completed_cp15 (s : State) : (s.completed).cp15 = s.cp15 := rfl
@[simp] theorem State.completed_run (s : State) : (s.completed).run = s.run := rfl
@[simp] theorem State.completed_mem (s : State) : (s.completed).mem = s.mem := rfl
@[simp] theorem State.completed_platform (s : State) : (s.completed).platform = s.platform := rfl
@[simp] theorem State.completed_irqPending (s : State) : (s.completed).irqPending = s.irqPending := rfl
@[simp] theorem State.completed_out (s : State) : (s.completed).out = { cycles := s.cfg.cycInsn, record := none, service := none } := rfl
@[simp] theorem State.completed_cfg (s : State) : (s.completed).cfg = s.cfg := rfl

/-! `skipped` -/

@[simp] theorem State.skipped_r (s : State) : (s.skipped).r = s.r := rfl
@[simp] theorem State.skipped_r13 (s : State) : (s.skipped).r13 = s.r13 := rfl
@[simp] theorem State.skipped_r14 (s : State) : (s.skipped).r14 = s.r14 := rfl
@[simp] theorem State.skipped_pc (s : State) : (s.skipped).pc = s.pc + 4#32 := rfl
@[simp] theorem State.skipped_cpsr (s : State) : (s.skipped).cpsr = s.cpsr := rfl
@[simp] theorem State.skipped_spsrSvc (s : State) : (s.skipped).spsrSvc = s.spsrSvc := rfl
@[simp] theorem State.skipped_spsrUnd (s : State) : (s.skipped).spsrUnd = s.spsrUnd := rfl
@[simp] theorem State.skipped_cp15 (s : State) : (s.skipped).cp15 = s.cp15 := rfl
@[simp] theorem State.skipped_run (s : State) : (s.skipped).run = s.run := rfl
@[simp] theorem State.skipped_mem (s : State) : (s.skipped).mem = s.mem := rfl
@[simp] theorem State.skipped_platform (s : State) : (s.skipped).platform = s.platform := rfl
@[simp] theorem State.skipped_irqPending (s : State) : (s.skipped).irqPending = s.irqPending := rfl
@[simp] theorem State.skipped_out (s : State) : (s.skipped).out = { cycles := s.cfg.cycSkip, record := none, service := none } := rfl
@[simp] theorem State.skipped_cfg (s : State) : (s.skipped).cfg = s.cfg := rfl

/-! `writeReg` -/

@[simp] theorem State.writeReg_cpsr (s : State) (m : Mode) (i : Reg) (v : Word) : (s.writeReg m i v).cpsr = s.cpsr := by
  unfold State.writeReg; repeat' split
  all_goals rfl
@[simp] theorem State.writeReg_spsrSvc (s : State) (m : Mode) (i : Reg) (v : Word) : (s.writeReg m i v).spsrSvc = s.spsrSvc := by
  unfold State.writeReg; repeat' split
  all_goals rfl
@[simp] theorem State.writeReg_spsrUnd (s : State) (m : Mode) (i : Reg) (v : Word) : (s.writeReg m i v).spsrUnd = s.spsrUnd := by
  unfold State.writeReg; repeat' split
  all_goals rfl
@[simp] theorem State.writeReg_cp15 (s : State) (m : Mode) (i : Reg) (v : Word) : (s.writeReg m i v).cp15 = s.cp15 := by
  unfold State.writeReg; repeat' split
  all_goals rfl
@[simp] theorem State.writeReg_run (s : State) (m : Mode) (i : Reg) (v : Word) : (s.writeReg m i v).run = s.run := by
  unfold State.writeReg; repeat' split
  all_goals rfl
@[simp] theorem State.writeReg_mem (s : State) (m : Mode) (i : Reg) (v : Word) : (s.writeReg m i v).mem = s.mem := by
  unfold State.writeReg; repeat' split
  all_goals rfl
@[simp] theorem State.writeReg_platform (s : State) (m : Mode) (i : Reg) (v : Word) : (s.writeReg m i v).platform = s.platform := by
  unfold State.writeReg; repeat' split
  all_goals rfl
@[simp] theorem State.writeReg_irqPending (s : State) (m : Mode) (i : Reg) (v : Word) : (s.writeReg m i v).irqPending = s.irqPending := by
  unfold State.writeReg; repeat' split
  all_goals rfl
@[simp] theorem State.writeReg_out (s : State) (m : Mode) (i : Reg) (v : Word) : (s.writeReg m i v).out = s.out := by
  unfold State.writeReg; repeat' split
  all_goals rfl
@[simp] theorem State.writeReg_cfg (s : State) (m : Mode) (i : Reg) (v : Word) : (s.writeReg m i v).cfg = s.cfg := by
  unfold State.writeReg; repeat' split
  all_goals rfl

/-! `writeDest` -/

@[simp] theorem State.writeDest_cpsr (s : State) (m : Mode) (i : Reg) (v : Word) : (s.writeDest m i v).cpsr = s.cpsr := by
  unfold State.writeDest; split <;> simp
@[simp] theorem State.writeDest_spsrSvc (s : State) (m : Mode) (i : Reg) (v : Word) : (s.writeDest m i v).spsrSvc = s.spsrSvc := by
  unfold State.writeDest; split <;> simp
@[simp] theorem State.writeDest_spsrUnd (s : State) (m : Mode) (i : Reg) (v : Word) : (s.writeDest m i v).spsrUnd = s.spsrUnd := by
  unfold State.writeDest; split <;> simp
@[simp] theorem State.writeDest_cp15 (s : State) (m : Mode) (i : Reg) (v : Word) : (s.writeDest m i v).cp15 = s.cp15 := by
  unfold State.writeDest; split <;> simp
@[simp] theorem State.writeDest_run (s : State) (m : Mode) (i : Reg) (v : Word) : (s.writeDest m i v).run = s.run := by
  unfold State.writeDest; split <;> simp
@[simp] theorem State.writeDest_mem (s : State) (m : Mode) (i : Reg) (v : Word) : (s.writeDest m i v).mem = s.mem := by
  unfold State.writeDest; split <;> simp
@[simp] theorem State.writeDest_platform (s : State) (m : Mode) (i : Reg) (v : Word) : (s.writeDest m i v).platform = s.platform := by
  unfold State.writeDest; split <;> simp
@[simp] theorem State.writeDest_irqPending (s : State) (m : Mode) (i : Reg) (v : Word) : (s.writeDest m i v).irqPending = s.irqPending := by
  unfold State.writeDest; split <;> simp
@[simp] theorem State.writeDest_out (s : State) (m : Mode) (i : Reg) (v : Word) : (s.writeDest m i v).out = s.out := by
  unfold State.writeDest; split <;> simp
@[simp] theorem State.writeDest_cfg (s : State) (m : Mode) (i : Reg) (v : Word) : (s.writeDest m i v).cfg = s.cfg := by
  unfold State.writeDest; split <;> simp

/-! `writeBack` -/

@[simp] theorem State.writeBack_cpsr (s : State) (m : Mode) (ix : Index) (i : Reg) (v : Word) : (s.writeBack m ix i v).cpsr = s.cpsr := by
  unfold State.writeBack; split <;> simp
@[simp] theorem State.writeBack_spsrSvc (s : State) (m : Mode) (ix : Index) (i : Reg) (v : Word) : (s.writeBack m ix i v).spsrSvc = s.spsrSvc := by
  unfold State.writeBack; split <;> simp
@[simp] theorem State.writeBack_spsrUnd (s : State) (m : Mode) (ix : Index) (i : Reg) (v : Word) : (s.writeBack m ix i v).spsrUnd = s.spsrUnd := by
  unfold State.writeBack; split <;> simp
@[simp] theorem State.writeBack_cp15 (s : State) (m : Mode) (ix : Index) (i : Reg) (v : Word) : (s.writeBack m ix i v).cp15 = s.cp15 := by
  unfold State.writeBack; split <;> simp
@[simp] theorem State.writeBack_run (s : State) (m : Mode) (ix : Index) (i : Reg) (v : Word) : (s.writeBack m ix i v).run = s.run := by
  unfold State.writeBack; split <;> simp
@[simp] theorem State.writeBack_mem (s : State) (m : Mode) (ix : Index) (i : Reg) (v : Word) : (s.writeBack m ix i v).mem = s.mem := by
  unfold State.writeBack; split <;> simp
@[simp] theorem State.writeBack_platform (s : State) (m : Mode) (ix : Index) (i : Reg) (v : Word) : (s.writeBack m ix i v).platform = s.platform := by
  unfold State.writeBack; split <;> simp
@[simp] theorem State.writeBack_irqPending (s : State) (m : Mode) (ix : Index) (i : Reg) (v : Word) : (s.writeBack m ix i v).irqPending = s.irqPending := by
  unfold State.writeBack; split <;> simp
@[simp] theorem State.writeBack_out (s : State) (m : Mode) (ix : Index) (i : Reg) (v : Word) : (s.writeBack m ix i v).out = s.out := by
  unfold State.writeBack; split <;> simp
@[simp] theorem State.writeBack_cfg (s : State) (m : Mode) (ix : Index) (i : Reg) (v : Word) : (s.writeBack m ix i v).cfg = s.cfg := by
  unfold State.writeBack; split <;> simp

/-! `setSpsr` -/

@[simp] theorem State.setSpsr_r (s : State) (m : Mode) (v : Word) : (s.setSpsr m v).r = s.r := by
  cases m <;> rfl
@[simp] theorem State.setSpsr_r13 (s : State) (m : Mode) (v : Word) : (s.setSpsr m v).r13 = s.r13 := by
  cases m <;> rfl
@[simp] theorem State.setSpsr_r14 (s : State) (m : Mode) (v : Word) : (s.setSpsr m v).r14 = s.r14 := by
  cases m <;> rfl
@[simp] theorem State.setSpsr_pc (s : State) (m : Mode) (v : Word) : (s.setSpsr m v).pc = s.pc := by
  cases m <;> rfl
@[simp] theorem State.setSpsr_cpsr (s : State) (m : Mode) (v : Word) : (s.setSpsr m v).cpsr = s.cpsr := by
  cases m <;> rfl
@[simp] theorem State.setSpsr_cp15 (s : State) (m : Mode) (v : Word) : (s.setSpsr m v).cp15 = s.cp15 := by
  cases m <;> rfl
@[simp] theorem State.setSpsr_run (s : State) (m : Mode) (v : Word) : (s.setSpsr m v).run = s.run := by
  cases m <;> rfl
@[simp] theorem State.setSpsr_mem (s : State) (m : Mode) (v : Word) : (s.setSpsr m v).mem = s.mem := by
  cases m <;> rfl
@[simp] theorem State.setSpsr_platform (s : State) (m : Mode) (v : Word) : (s.setSpsr m v).platform = s.platform := by
  cases m <;> rfl
@[simp] theorem State.setSpsr_irqPending (s : State) (m : Mode) (v : Word) : (s.setSpsr m v).irqPending = s.irqPending := by
  cases m <;> rfl
@[simp] theorem State.setSpsr_out (s : State) (m : Mode) (v : Word) : (s.setSpsr m v).out = s.out := by
  cases m <;> rfl
@[simp] theorem State.setSpsr_cfg (s : State) (m : Mode) (v : Word) : (s.setSpsr m v).cfg = s.cfg := by
  cases m <;> rfl

/-! `enterTrap` -/

section
variable (s : State) (k : TrapKind)

@[simp] theorem enterTrap_r : (enterTrap k s).r = s.r := by cases k <;> rfl
@[simp] theorem enterTrap_r13 : (enterTrap k s).r13 = s.r13 := by cases k <;> rfl
@[simp] theorem enterTrap_r14 :
    (enterTrap k s).r14 = s.r14.set k.targetMode (k.returnAddress s.pc) := by cases k <;> rfl
@[simp] theorem enterTrap_pc : (enterTrap k s).pc = k.vector s.cfg := rfl
@[simp] theorem enterTrap_cpsr :
    (enterTrap k s).cpsr = withBit (withModeField s.cpsr k.targetMode.bits) 7 true := rfl
@[simp] theorem enterTrap_cp15 : (enterTrap k s).cp15 = s.cp15 := by cases k <;> rfl
@[simp] theorem enterTrap_run : (enterTrap k s).run = s.run := by cases k <;> rfl
@[simp] theorem enterTrap_mem : (enterTrap k s).mem = s.mem := by cases k <;> rfl
@[simp] theorem enterTrap_platform : (enterTrap k s).platform = s.platform := by cases k <;> rfl
@[simp] theorem enterTrap_irqPending : (enterTrap k s).irqPending = s.irqPending := by cases k <;> rfl
@[simp] theorem enterTrap_cfg : (enterTrap k s).cfg = s.cfg := by cases k <;> rfl
@[simp] theorem enterTrap_spsrUnd_of_undefined : (enterTrap .undefined s).spsrUnd = s.cpsr := rfl
@[simp] theorem enterTrap_spsrSvc_of_undefined : (enterTrap .undefined s).spsrSvc = s.spsrSvc := rfl
@[simp] theorem enterTrap_spsrSvc_of_swi : (enterTrap .softwareInterrupt s).spsrSvc = s.cpsr := rfl
@[simp] theorem enterTrap_spsrUnd_of_swi : (enterTrap .softwareInterrupt s).spsrUnd = s.spsrUnd := rfl

end

/-! Banked registers -/

@[simp] theorem Banked.get_set_same (b : Banked) (m : Mode) (v : Word) : (b.set m v).get m = v := by
  cases m <;> rfl

@[simp] theorem Banked.get_set_of_ne (b : Banked) (m m' : Mode) (v : Word) (h : m' ≠ m) :
    (b.set m v).get m' = b.get m' := by
  cases m <;> cases m' <;> first | rfl | exact absurd rfl h

/-! `readReg` after each update -/

theorem readReg_congr (s t : State) (m : Mode) (i : Reg) (hr : t.r = s.r) (h13 : t.r13 = s.r13)
    (h14 : t.r14 = s.r14) (hi : i ≠ 15) : t.readReg m i = s.readReg m i := by
  unfold State.readReg
  rw [hr, h13, h14]
  have h15 : ¬ i.val = 15 := fun h => hi (Fin.ext h)
  split
  · rfl
  · split
    · rfl
    · split
      · rfl
      · next a b c =>
        have := i.isLt
        have h1 : i.val ≠ 13 := fun h => b (Fin.ext h)
        have h2 : i.val ≠ 14 := fun h => c (Fin.ext h)
        omega

@[simp] theorem readReg_writeReg_same (s : State) (m : Mode) (i : Reg) (v : Word) (hi : i ≠ 15) :
    (s.writeReg m i v).readReg m i = v := by
  have h15 : ¬ i.val = 15 := fun h => hi (Fin.ext h)
  unfold State.readReg State.writeReg
  split
  · simp
  · split
    · simp
    · split
      · simp
      · next a b c =>
        have := i.isLt
        have h1 : i.val ≠ 13 := fun h => b (Fin.ext h)
        have h2 : i.val ≠ 14 := fun h => c (Fin.ext h)
        omega

/-- A register write leaves every other register of every view alone; the copies of other modes
always. -/
theorem readReg_writeReg_of_ne (s : State) (m m' : Mode) (i j : Reg) (v : Word) (hj : j ≠ 15)
    (h : j ≠ i) : (s.writeReg m i v).readReg m' j = s.readReg m' j := by
  have h15 : ¬ j.val = 15 := fun e => hj (Fin.ext e)
  have hv : ¬ i.val = j.val := fun e => h (Fin.ext e.symm)
  have hlt := j.isLt
  by_cases hi : i.val < 13
  · unfold State.readReg State.writeReg
    simp only [hi, ↓reduceDIte]
    split
    · exact Vector.getElem_set_ne _ _ hv
    · split
      · rfl
      · split
        · rfl
        · next a b c =>
          have h1 : j.val ≠ 13 := fun e => b (Fin.ext e)
          have h2 : j.val ≠ 14 := fun e => c (Fin.ext e)
          omega
  · by_cases i13 : i = 13
    · subst i13
      simp [State.readReg, State.writeReg, h]
    · by_cases i14 : i = 14
      · subst i14
        simp [State.readReg, State.writeReg, h]
      · have : s.writeReg m i v = { s with pc := v } := by simp [State.writeReg, hi, i13, i14]
        rw [this]
        exact readReg_congr _ _ _ _ rfl rfl rfl hj

theorem writeReg_banks_of_ne (s : State) (m m' : Mode) (i : Reg) (v : Word) (h : m' ≠ m) :
    (s.writeReg m i v).r13.get m' = s.r13.get m' ∧ (s.writeReg m i v).r14.get m' = s.r14.get m' := by
  unfold State.writeReg
  repeat' split
  all_goals simp [Banked.get_set_of_ne, h]

@[simp] theorem writeReg_pc (s : State) (m : Mode) (i : Reg) (v : Word) (h : i ≠ 15) :
    (s.writeReg m i v).pc = s.pc := by
  have h15 : ¬ i.val = 15 := fun e => h (Fin.ext e)
  unfold State.writeReg
  split
  · rfl
  · split
    · rfl
    · split
      · rfl
      · next a b c =>
        have := i.isLt
        have h1 : i.val ≠ 13 := fun e => b (Fin.ext e)
        have h2 : i.val ≠ 14 := fun e => c (Fin.ext e)
        omega

@[simp] theorem writeReg_fifteen (s : State) (m : Mode) (v : Word) :
    s.writeReg m 15 v = { s with pc := v } := by simp [State.writeReg]

theorem writeDest_fifteen (s : State) (m : Mode) (v : Word) : s.writeDest m 15 v = s.redirect v := by
  simp [State.writeDest]

theorem writeDest_of_ne (s : State) (m : Mode) (i : Reg) (v : Word) (h : i ≠ 15) :
    s.writeDest m i v = (s.writeReg m i v).advance := by simp [State.writeDest, h]

@[simp] theorem readReg_advance (s : State) (m : Mode) (i : Reg) (h : i ≠ 15) :
    s.advance.readReg m i = s.readReg m i := readReg_congr _ _ _ _ rfl rfl rfl h

@[simp] theorem readReg_redirect (s : State) (m : Mode) (i : Reg) (v : Word) (h : i ≠ 15) :
    (s.redirect v).readReg m i = s.readReg m i := readReg_congr _ _ _ _ rfl rfl rfl h

@[simp] theorem readReg_report (s : State) (m : Mode) (i : Reg) (n : Nat) (e : Option ExceptionRecord)
    (c : Option ServiceCall) : (s.report n e c).readReg m i = s.readReg m i := rfl

@[simp] theorem readReg_completed (s : State) (m : Mode) (i : Reg) :
    s.completed.readReg m i = s.readReg m i := rfl

@[simp] theorem readReg_withCpsr (s : State) (p : Word) (m : Mode) (i : Reg) :
    ({ s with cpsr := p } : State).readReg m i = s.readReg m i := rfl

/-! `withContents` -/

@[simp] theorem State.withContents_r (s : State) (c : BusContents) : (s.withContents c).r = s.r := rfl
@[simp] theorem State.withContents_r13 (s : State) (c : BusContents) : (s.withContents c).r13 = s.r13 := rfl
@[simp] theorem State.withContents_r14 (s : State) (c : BusContents) : (s.withContents c).r14 = s.r14 := rfl
@[simp] theorem State.withContents_pc (s : State) (c : BusContents) : (s.withContents c).pc = s.pc := rfl
@[simp] theorem State.withContents_cpsr (s : State) (c : BusContents) : (s.withContents c).cpsr = s.cpsr := rfl
@[simp] theorem State.withContents_spsrSvc (s : State) (c : BusContents) : (s.withContents c).spsrSvc = s.spsrSvc := rfl
@[simp] theorem State.withContents_spsrUnd (s : State) (c : BusContents) : (s.withContents c).spsrUnd = s.spsrUnd := rfl
@[simp] theorem State.withContents_cp15 (s : State) (c : BusContents) : (s.withContents c).cp15 = s.cp15 := rfl
@[simp] theorem State.withContents_run (s : State) (c : BusContents) : (s.withContents c).run = s.run := rfl
@[simp] theorem State.withContents_mem (s : State) (c : BusContents) : (s.withContents c).mem = c.mem := rfl
@[simp] theorem State.withContents_platform (s : State) (c : BusContents) : (s.withContents c).platform = c.platform := rfl
@[simp] theorem State.withContents_irqPending (s : State) (c : BusContents) : (s.withContents c).irqPending = s.irqPending := rfl
@[simp] theorem State.withContents_out (s : State) (c : BusContents) : (s.withContents c).out = s.out := rfl
@[simp] theorem State.withContents_cfg (s : State) (c : BusContents) : (s.withContents c).cfg = s.cfg := rfl
@[simp] theorem State.withContents_contents (s : State) (c : BusContents) : (s.withContents c).contents = c := rfl
@[simp] theorem State.withContents_self (s : State) : s.withContents s.contents = s := rfl
@[simp] theorem State.withContents_mode (s : State) (c : BusContents) : (s.withContents c).mode = s.mode := rfl
@[simp] theorem State.contents_mem (s : State) : s.contents.mem = s.mem := rfl
@[simp] theorem State.contents_platform (s : State) : s.contents.platform = s.platform := rfl

@[simp] theorem readReg_withContents (s : State) (c : BusContents) (m : Mode) (i : Reg) :
    (s.withContents c).readReg m i = s.readReg m i := rfl

@[simp] theorem readReg_withMem (s : State) (l : List Host.Cell) (m : Mode) (i : Reg) :
    ({ s with mem := l } : State).readReg m i = s.readReg m i := rfl

@[simp] theorem readReg_fifteen (s : State) (m : Mode) : s.readReg m 15 = s.pc + 8#32 := by
  simp [State.readReg]

/-! The mode depends on `cpsr` alone -/

theorem mode_congr (s t : State) (h : t.cpsr = s.cpsr) : t.mode = s.mode := by
  unfold State.mode; rw [h]

theorem mode_eq_of_low (s t : State) (h : modeField t.cpsr = modeField s.cpsr) : t.mode = s.mode := by
  unfold State.mode; rw [h]

end Sys2Proof.Machine
end

