-- ==== Sys2Proof/Laws/Ops.lean ====
section
/-! SUPPORT. What each shared operation can do, said once: keyed stores, the status word, the bus, the
coprocessor bank, the condition wrapper, traps and returns, the decoder's wrapper. -/

namespace Sys2Proof.Machine

/-! Keyed stores -/

section cells
variable {α : Type}

@[simp] theorem cellGet_cellSet_same (k : Nat) (x : α) (l : List (Nat × α)) :
    cellGet k (cellSet k x l) = some x := by
  induction l with
  | nil => simp [cellSet, cellGet]
  | cons c t ih =>
    obtain ⟨a, v⟩ := c
    unfold cellSet
    split
    · simp [cellGet]
    · split
      · simp [cellGet]
      · next h => simp [cellGet, h, ih]

theorem cellGet_cellSet_of_ne (j k : Nat) (x : α) (l : List (Nat × α)) (h : j ≠ k) :
    cellGet j (cellSet k x l) = cellGet j l := by
  induction l with
  | nil => simp [cellSet, cellGet, Ne.symm h]
  | cons c t ih =>
    obtain ⟨a, v⟩ := c
    unfold cellSet
    split
    · simp [cellGet, Ne.symm h]
    · split
      · next e => subst e; simp [cellGet, Ne.symm h]
      · simp [cellGet, ih]

theorem mem_cellSet (k : Nat) (x : α) (l : List (Nat × α)) (c : Nat × α) (h : c ∈ cellSet k x l) :
    c.1 = k ∨ c ∈ l := by
  induction l with
  | nil => simp [cellSet] at h; simp [h]
  | cons d t ih =>
    obtain ⟨a, v⟩ := d
    unfold cellSet at h
    split at h
    · rcases List.mem_cons.1 h with h | h
      · simp [h]
      · exact .inr h
    · split at h
      · rcases List.mem_cons.1 h with h | h
        · simp [h]
        · exact .inr (List.mem_cons_of_mem _ h)
      · rcases List.mem_cons.1 h with h | h
        · exact .inr (by simp [h])
        · exact (ih h).imp id (List.mem_cons_of_mem _)

/-- A write keeps the keys rising. -/
theorem keysRise_cellSet (k : Nat) (x : α) (l : List (Nat × α)) (h : keysRise l) :
    keysRise (cellSet k x l) := by
  induction l with
  | nil => simp [cellSet, keysRise]
  | cons d t ih =>
    obtain ⟨a, v⟩ := d
    have ⟨h1, h2⟩ := List.pairwise_cons.1 h
    unfold cellSet
    split
    · next lt =>
      refine List.pairwise_cons.2 ⟨fun c hc => ?_, h⟩
      rcases List.mem_cons.1 hc with e | e
      · simpa [e] using lt
      · exact Nat.lt_trans lt (h1 c e)
    · split
      · next e => subst e; exact List.pairwise_cons.2 ⟨h1, h2⟩
      · next nlt ne =>
        refine List.pairwise_cons.2 ⟨fun c hc => ?_, ih h2⟩
        rcases mem_cellSet k x t c hc with e | e
        · simp only [e]; omega
        · exact h1 c e

theorem keysRise_tail_not_get (a : Nat) (t : List (Nat × α)) (k : Nat)
    (h : ∀ c ∈ t, a < c.1) (hk : k ≤ a) : cellGet k t = none := by
  induction t with
  | nil => rfl
  | cons d u ih =>
    have : a < d.1 := h d (by simp)
    have hne : d.1 ≠ k := by omega
    simp [cellGet, hne, ih fun c hc => h c (List.mem_cons_of_mem _ hc)]

/-- A write at a listed key keeps the list of keys. -/
theorem keys_cellSet_of_listed (k : Nat) (x v : α) (l : List (Nat × α)) (h : keysRise l)
    (hv : cellGet k l = some v) : (cellSet k x l).map Prod.fst = l.map Prod.fst := by
  induction l with
  | nil => simp [cellGet] at hv
  | cons d t ih =>
    obtain ⟨a, w⟩ := d
    have ⟨h1, h2⟩ := List.pairwise_cons.1 h
    unfold cellSet
    split
    · next lt =>
      have hne : a ≠ k := by omega
      simp only [cellGet, hne, if_false] at hv
      rw [keysRise_tail_not_get a t k h1 (by omega)] at hv
      cases hv
    · split
      · next e => simp [e]
      · next e =>
        simp only [cellGet, e, if_false] at hv
        simp [ih h2 hv]

/-- Whether a key is listed depends on the list of keys alone. -/
theorem cellGet_isSome_iff (k : Nat) (l : List (Nat × α)) :
    (cellGet k l).isSome = true ↔ k ∈ l.map Prod.fst := by
  induction l with
  | nil => simp [cellGet]
  | cons d t ih =>
    obtain ⟨a, w⟩ := d
    unfold cellGet
    split
    · next e => simp [e]
    · next e => rw [ih]; simp [Ne.symm e]

end cells

/-! The status word -/

theorem getLsbD_withBit (p : Word) (i j : Nat) (b : Bool) (hi : i < 32) :
    (withBit p i b).getLsbD j = if j = i then b else p.getLsbD j := by
  unfold withBit
  by_cases hj : j < 32
  · by_cases e : j = i
    · subst e
      cases b <;> simp [hj]
    · have this : ((1#32 : Word) <<< i).getLsbD j = false := by
        rw [BitVec.getLsbD_shiftLeft]
        by_cases lt : j < i
        · simp [lt]
        · have hne : j - i ≠ 0 := by omega
          simp [hne]
      cases b
      · simp only [Bool.false_eq_true, if_false, BitVec.getLsbD_and, BitVec.getLsbD_not, this, e, hj]
        simp
      · simp only [if_true, BitVec.getLsbD_or, this, e, if_false, Bool.or_false]
  · have e : j ≠ i := by omega
    have h1 : p.getLsbD j = false := BitVec.getLsbD_of_ge _ _ (by omega)
    rw [BitVec.getLsbD_of_ge _ _ (by omega)]
    simp [e, h1]

theorem getLsbD_withModeField (p : Word) (m : BitVec 5) (j : Nat) :
    (withModeField p m).getLsbD j = if j < 5 then m.getLsbD j else p.getLsbD j := by
  unfold withModeField
  rw [BitVec.getLsbD_append]
  split
  · rfl
  · rw [BitVec.getLsbD_extractLsb']
    by_cases hj : j < 32
    · have h1 : j - 5 < 27 := by omega
      have h2 : 5 + (j - 5) = j := by omega
      simp [h1, h2]
    · have h1 : ¬ j - 5 < 27 := by omega
      simp [h1, BitVec.getLsbD_of_ge p j (by omega)]

theorem getLsbD_modeField (p : Word) (j : Nat) :
    (modeField p).getLsbD j = (decide (j < 5) && p.getLsbD j) := by
  simp [modeField]

theorem modeField_congr (p q : Word) (h : ∀ j, j < 5 → p.getLsbD j = q.getLsbD j) :
    modeField p = modeField q := by
  apply BitVec.eq_of_getLsbD_eq
  intro j hj
  rw [getLsbD_modeField, getLsbD_modeField, h j hj]

@[simp] theorem modeField_withModeField (p : Word) (m : BitVec 5) :
    modeField (withModeField p m) = m := by
  apply BitVec.eq_of_getLsbD_eq
  intro j hj
  rw [getLsbD_modeField, getLsbD_withModeField, if_pos hj, decide_eq_true hj, Bool.true_and]

theorem modeField_withBit (p : Word) (i : Nat) (b : Bool) (h5 : 5 ≤ i) (hi : i < 32) :
    modeField (withBit p i b) = modeField p := by
  apply modeField_congr
  intro j hj
  rw [getLsbD_withBit _ _ _ _ hi, if_neg (by omega)]

@[simp] theorem Mode.ofBits_bits (m : Mode) : Mode.ofBits m.bits = some m := by cases m <;> rfl

theorem Mode.ofBits_eq_some (b : BitVec 5) (m : Mode) : Mode.ofBits b = some m ↔ b = m.bits := by
  constructor
  · unfold Mode.ofBits
    intro h
    split at h
    · next e => cases h; exact e
    · split at h
      · next e => cases h; exact e
      · split at h
        · next e => cases h; exact e
        · cases h
  · rintro rfl; simp

/-- The N and Z writes touch bits 31 and 30 alone (R160, R231). -/
theorem getLsbD_withNZ (p r : Word) (j : Nat) : (withNZ p r).getLsbD j =
    if j = 31 then r.getLsbD 31 else if j = 30 then decide (r = 0#32) else p.getLsbD j := by
  unfold withNZ
  rw [getLsbD_withBit _ _ _ _ (by omega), getLsbD_withBit _ _ _ _ (by omega)]
  split <;> split <;> first | rfl | omega

/-- The flag writes touch bits 31 to 28 alone (R160). -/
theorem getLsbD_withNZCV (p : Word) (o : AluOut) (j : Nat) : (withNZCV p o).getLsbD j =
    if j = 31 then o.result.getLsbD 31 else if j = 30 then decide (o.result = 0#32)
    else if j = 29 then o.carry else if j = 28 then o.overflow else p.getLsbD j := by
  unfold withNZCV
  rw [getLsbD_withBit _ _ _ _ (by omega), getLsbD_withBit _ _ _ _ (by omega), getLsbD_withNZ]
  by_cases h1 : j = 28
  · subst h1; simp
  · by_cases h2 : j = 29
    · subst h2; simp
    · simp [h1, h2]

/-- Bits 27 to 8 are clear exactly when each of them is. -/
theorem reservedClear_iff (p : Word) :
    p.extractLsb' 8 20 = 0#20 ↔ ∀ j, 8 ≤ j → j < 28 → p.getLsbD j = false := by
  constructor
  · intro h j h1 h2
    have := congrArg (fun v => BitVec.getLsbD v (j - 8)) h
    have e : 8 + (j - 8) = j := by omega
    have l : j - 8 < 20 := by omega
    simpa [BitVec.getLsbD_extractLsb', e, l] using this
  · intro h
    apply BitVec.eq_of_getLsbD_eq
    intro j hj
    simp [hj, h (8 + j) (by omega) (by omega)]

/-! The bus -/

theorem busAccepts_iff (cfg : Config) (a : Word) (n : Nat) : busAccepts cfg a n = true ↔
    a.toNat % n = 0 ∧ ∀ k, k < n → mappedByte cfg (a.toNat + k) = true := by
  simp [busAccepts, mappedBytes]

theorem memWord_eq_some (m : List Host.Cell) (a : Nat) (v : Word) : memWord m a = some v ↔
    ∃ b0 b1 b2 b3, cellGet a m = some b0 ∧ cellGet (a + 1) m = some b1 ∧ cellGet (a + 2) m = some b2 ∧
      cellGet (a + 3) m = some b3 ∧ v = wordOfBytes b0 b1 b2 b3 := by
  unfold memWord
  constructor
  · intro h
    split at h
    · next b0 b1 b2 b3 h0 h1 h2 h3 =>
      exact ⟨b0, b1, b2, b3, h0, h1, h2, h3, by cases h; rfl⟩
    · cases h
  · rintro ⟨b0, b1, b2, b3, h0, h1, h2, h3, rfl⟩
    simp [h0, h1, h2, h3]

/-- A read of the reference bus answers a value exactly when it accepts the address and holds one, and
leaves the memory as it was (R69, R70). -/
theorem referenceRead_eq_value {α : Type} (ok : Bool) (held : Option α) (m m' : List Host.Cell) (v : α) :
    referenceRead ok held m = .value (v, m') ↔ ok = true ∧ held = some v ∧ m' = m := by
  unfold referenceRead
  cases ok <;> cases held <;> simp [eq_comm]

theorem referenceRead_eq_memoryFault {α : Type} (ok : Bool) (held : Option α) (m : List Host.Cell) :
    referenceRead ok held m = .memoryFault ↔ ok = false := by
  unfold referenceRead
  cases ok <;> cases held <;> simp

/-- What a read through the bus answers when it answers a value (R66): the bus's value, its contents as
the bus left them, and no other change. -/
theorem memRead_eq_ok (bus : Bus BusContents) (k : AccessKind) (a v : Word) (s t : State) :
    memRead bus k a s = .ok (v, t) ↔ ∃ c, bus.read32 a s.contents = .value (v, c) ∧ t = s.withContents c := by
  unfold memRead
  split
  · next w c e => simp [e, eq_comm, and_comm]
  · next e => simp [e]
  · next e => simp [e]

theorem memRead_of_memoryFault (bus : Bus BusContents) (k : AccessKind) (a : Word) (s : State)
    (h : bus.read32 a s.contents = .memoryFault) : memRead bus k a s = .error (.memoryFault k 4 a) := by
  simp [memRead, h]

theorem memRead_error (bus : Bus BusContents) (k : AccessKind) (a : Word) (s : State) (f : Fault)
    (h : memRead bus k a s = .error f) : f = .memoryFault k 4 a ∨ f = .unwrittenMemory k 4 a := by
  unfold memRead at h
  split at h
  · cases h
  · cases h; exact .inr rfl
  · cases h; exact .inl rfl

/-- What a write through the bus answers when it answers a state (R66). -/
theorem memWrite_eq_ok (bus : Bus BusContents) (a v : Word) (s t : State) :
    memWrite bus a v s = .ok t ↔ ∃ c, bus.write32 a v s.contents = some c ∧ t = s.withContents c := by
  unfold memWrite
  split
  · next c e => simp [e, eq_comm]
  · next e => simp [e]

theorem memWrite_of_memoryFault (bus : Bus BusContents) (a v : Word) (s : State)
    (h : bus.write32 a v s.contents = none) : memWrite bus a v s = .error (.memoryFault .store 4 a) := by
  simp [memWrite, h]

theorem memWrite_error (bus : Bus BusContents) (a v : Word) (s : State) (f : Fault)
    (h : memWrite bus a v s = .error f) : f = .memoryFault .store 4 a := by
  unfold memWrite at h
  split at h
  · cases h
  · cases h; rfl

theorem busOf_reference (cfg : Config) (h : cfg.bus = .reference) :
    busOf cfg = liftBus (fun c => c.mem) (fun c m => { c with mem := m }) (referenceBus cfg) := by
  simp [busOf, h]

theorem busOf_platform (cfg : Config) (n : Nat) (h : cfg.bus = .platform n) :
    busOf cfg = liftBus (fun c => c.platform) (fun c p => { c with platform := p })
      (Config.platformBus n) := by
  simp [busOf, h]

/-- The reference bus reads a word exactly when it accepts the address and the bytes are written; the
state is as before (R69, R70). -/
theorem memRead_reference_eq_ok (cfg : Config) (h : cfg.bus = .reference)
    (k : AccessKind) (a v : Word) (s t : State) :
    memRead (busOf cfg) k a s = .ok (v, t) ↔
      busAccepts cfg a 4 = true ∧ memWord s.mem a.toNat = some v ∧ t = s := by
  rw [memRead_eq_ok, busOf_reference _ h]
  cases e : (referenceBus cfg).read32 a s.mem with
  | memoryFault =>
    have := (referenceRead_eq_memoryFault _ _ _).1 e
    simp [liftBus, mapAnswer, e, this]
  | unwritten =>
    have : ¬(busAccepts cfg a 4 = true ∧ memWord s.mem a.toNat = some v) := fun g =>
      nomatch e.symm.trans ((referenceRead_eq_value _ _ s.mem s.mem v).2 ⟨g.1, g.2, rfl⟩)
    simp only [liftBus, State.contents_mem, e, mapAnswer]
    exact ⟨nofun, fun g => absurd ⟨g.1, g.2.1⟩ this⟩
  | value x =>
    obtain ⟨w, m⟩ := x
    obtain ⟨h1, h2, rfl⟩ := (referenceRead_eq_value _ _ _ _ _).1 e
    simp only [liftBus, State.contents_mem, e, mapAnswer, BusAnswer.value.injEq, Prod.mk.injEq, h1, h2,
      true_and, Option.some.injEq]
    exact ⟨fun ⟨c, ⟨g1, g2⟩, g3⟩ => ⟨g1, by rw [g3, ← g2]; rfl⟩, fun ⟨g1, g2⟩ => ⟨_, ⟨g1, rfl⟩, g2⟩⟩

/-- The reference bus writes a word exactly when it accepts the address; only memory changes (R70). -/
theorem memWrite_reference_eq_ok (cfg : Config) (h : cfg.bus = .reference)
    (a v : Word) (s t : State) :
    memWrite (busOf cfg) a v s = .ok t ↔
      busAccepts cfg a 4 = true ∧ t = { s with mem := memSetWord s.mem a.toNat v } := by
  rw [memWrite_eq_ok, busOf_reference _ h]
  by_cases hb : busAccepts cfg a 4 = true
  · simp only [liftBus, referenceBus, hb, if_true, State.contents_mem, Option.map_some, Option.some.injEq,
      true_and]
    exact ⟨fun ⟨c, g1, g2⟩ => by rw [g2, ← g1]; rfl, fun g => ⟨_, rfl, g⟩⟩
  · simp [liftBus, referenceBus, hb]

theorem memRead_reference_of_refused (cfg : Config) (h : cfg.bus = .reference)
    (k : AccessKind) (a : Word) (s : State)
    (hb : ¬ busAccepts cfg a 4 = true) : memRead (busOf cfg) k a s = .error (.memoryFault k 4 a) := by
  apply memRead_of_memoryFault
  simp [busOf_reference _ h, liftBus, referenceBus, referenceRead, hb, mapAnswer]

theorem memWrite_reference_of_refused (cfg : Config) (h : cfg.bus = .reference)
    (a v : Word) (s : State)
    (hb : ¬ busAccepts cfg a 4 = true) :
    memWrite (busOf cfg) a v s = .error (.memoryFault .store 4 a) := by
  apply memWrite_of_memoryFault
  simp [busOf_reference _ h, liftBus, referenceBus, hb]

/-- A word is the join of its four bytes (R63). -/
theorem wordOfBytes_extract (v : Word) :
    wordOfBytes (v.extractLsb' 0 8) (v.extractLsb' 8 8) (v.extractLsb' 16 8) (v.extractLsb' 24 8) = v := by
  unfold wordOfBytes
  apply BitVec.eq_of_getLsbD_eq
  intro j hj
  simp only [BitVec.getLsbD_append, BitVec.getLsbD_extractLsb']
  by_cases h1 : j < 8
  · simp [h1]
  · by_cases h2 : j - 8 < 8
    · have e : 8 + (j - 8) = j := by omega
      simp [h1, h2, e]
    · by_cases h3 : j - 8 - 8 < 8
      · have e : 16 + (j - 8 - 8) = j := by omega
        simp [h1, h2, h3, e]
      · have e : 24 + (j - 8 - 8 - 8) = j := by omega
        have h4 : j - 8 - 8 - 8 < 8 := by omega
        simp [h1, h2, h3, h4, e]

/-- The bytes after a word store: the four stored ones, every other address as before (R70). -/
theorem cellGet_memSetWord (m : List Host.Cell) (a : Nat) (v : Word) (x : Nat) :
    cellGet x (memSetWord m a v) =
      if x = a + 3 then some (v.extractLsb' 24 8) else if x = a + 2 then some (v.extractLsb' 16 8)
      else if x = a + 1 then some (v.extractLsb' 8 8) else if x = a then some (v.extractLsb' 0 8)
      else cellGet x m := by
  unfold memSetWord memSetByte
  by_cases h3 : x = a + 3
  · subst h3; simp
  · rw [cellGet_cellSet_of_ne _ _ _ _ h3, if_neg h3]
    by_cases h2 : x = a + 2
    · subst h2; simp
    · rw [cellGet_cellSet_of_ne _ _ _ _ h2, if_neg h2]
      by_cases h1 : x = a + 1
      · subst h1; simp
      · rw [cellGet_cellSet_of_ne _ _ _ _ h1, if_neg h1]
        by_cases h0 : x = a
        · subst h0; simp
        · rw [cellGet_cellSet_of_ne _ _ _ _ h0, if_neg h0]

theorem memSetByte_wf (m : List Host.Cell) (a : Nat) (b : Byte) (h : Memory.wf m) (ha : a < 2 ^ 32) :
    Memory.wf (memSetByte m a b) :=
  ⟨keysRise_cellSet _ _ _ h.1, fun c hc => (mem_cellSet _ _ _ _ hc).elim (fun e => e ▸ ha) (h.2 c)⟩

/-- A word store keeps memory's canonical form. -/
theorem memSetWord_wf (m : List Host.Cell) (a : Nat) (v : Word) (h : Memory.wf m) (ha : a + 3 < 2 ^ 32) :
    Memory.wf (memSetWord m a v) :=
  memSetByte_wf _ _ _ (memSetByte_wf _ _ _ (memSetByte_wf _ _ _ (memSetByte_wf _ _ _ h (by omega))
    (by omega)) (by omega)) ha

theorem memSetHalf_wf (m : List Host.Cell) (a : Nat) (v : BitVec 16) (h : Memory.wf m) (ha : a + 1 < 2 ^ 32) :
    Memory.wf (memSetHalf m a v) :=
  memSetByte_wf _ _ _ (memSetByte_wf _ _ _ h (by omega)) ha

/-- Every write port of the reference bus keeps memory's canonical form. -/
theorem referenceBus_write8_wf (cfg : Config) (a : Word) (v : Byte) (m m' : List Host.Cell)
    (h : (referenceBus cfg).write8 a v m = some m') (hw : Memory.wf m) : Memory.wf m' := by
  simp only [referenceBus, Option.ite_none_right_eq_some, Option.some.injEq] at h
  rw [← h.2]
  exact memSetByte_wf _ _ _ hw a.isLt

theorem referenceBus_write16_wf (cfg : Config) (a : Word) (v : BitVec 16) (m m' : List Host.Cell)
    (h : (referenceBus cfg).write16 a v m = some m') (hw : Memory.wf m) : Memory.wf m' := by
  simp only [referenceBus, Option.ite_none_right_eq_some, Option.some.injEq] at h
  have ha := ((busAccepts_iff cfg a 2).1 h.1).1
  have := a.isLt
  rw [← h.2]
  exact memSetHalf_wf _ _ _ hw (by omega)

theorem referenceBus_write32_wf (cfg : Config) (a v : Word) (m m' : List Host.Cell)
    (h : (referenceBus cfg).write32 a v m = some m') (hw : Memory.wf m) : Memory.wf m' := by
  simp only [referenceBus, Option.ite_none_right_eq_some, Option.some.injEq] at h
  have ha := ((busAccepts_iff cfg a 4).1 h.1).1
  have := a.isLt
  rw [← h.2]
  exact memSetWord_wf _ _ _ hw (by omega)

/-- A read, through whichever bus the parameters choose, leaves the reference bus's memory alone. -/
theorem memRead_mem (cfg : Config) (k : AccessKind) (a v : Word) (s t : State)
    (h : memRead (busOf cfg) k a s = .ok (v, t)) : t.mem = s.mem := by
  cases hb : cfg.bus with
  | reference => rw [((memRead_reference_eq_ok cfg hb k a v s t).1 h).2.2]
  | platform n =>
    obtain ⟨c, h1, rfl⟩ := (memRead_eq_ok _ _ _ _ _ _).1 h
    rw [busOf_platform _ _ hb] at h1
    simp only [liftBus] at h1
    cases e : (Config.platformBus n).read32 a s.platform with
    | memoryFault => simp [e, mapAnswer] at h1
    | unwritten => simp [e, mapAnswer] at h1
    | value x =>
      simp only [State.contents_platform, e, mapAnswer, BusAnswer.value.injEq, Prod.mk.injEq] at h1
      rw [← h1.2]
      rfl

/-- A write, through whichever bus the parameters choose, keeps memory's canonical form. -/
theorem memWrite_wf (cfg : Config) (a v : Word) (s t : State) (h : memWrite (busOf cfg) a v s = .ok t)
    (hw : Memory.wf s.mem) : Memory.wf t.mem := by
  obtain ⟨c, h1, rfl⟩ := (memWrite_eq_ok _ _ _ _ _).1 h
  cases hb : cfg.bus with
  | reference =>
    rw [busOf_reference _ hb] at h1
    obtain ⟨m, h2, rfl⟩ := Option.map_eq_some_iff.1 h1
    exact referenceBus_write32_wf _ _ _ _ _ h2 hw
  | platform n =>
    rw [busOf_platform _ _ hb] at h1
    obtain ⟨p, -, rfl⟩ := Option.map_eq_some_iff.1 h1
    exact hw

/-! The wrappers of a meaning -/

/-- A meaning under a condition either runs, or skips (R133). -/
theorem whenPassed_cases (c : Cond) (s : State) (b : Result) :
    (conditionPassed c s.cpsr = true ∧ whenPassed c s b = b) ∨
    (conditionPassed c s.cpsr = false ∧ whenPassed c s b = .next s.skipped) := by
  unfold whenPassed
  by_cases h : conditionPassed c s.cpsr = true
  · exact .inl ⟨h, by simp [h]⟩
  · exact .inr ⟨by simpa using h, by simp [h]⟩

@[simp] theorem whenPassed_of_pass (c : Cond) (s : State) (b : Result)
    (h : conditionPassed c s.cpsr = true) : whenPassed c s b = b := by simp [whenPassed, h]

@[simp] theorem whenPassed_of_fail (c : Cond) (s : State) (b : Result)
    (h : conditionPassed c s.cpsr = false) : whenPassed c s b = .next s.skipped := by
  simp [whenPassed, h]

@[simp] theorem inMode_of_mode (s : State) (m : Mode) (f : Mode → Result) (h : s.mode = some m) :
    inMode s f = f m := by simp [inMode, h]

theorem inMode_eq_next (s t : State) (f : Mode → Result) (h : inMode s f = .next t) :
    ∃ m, s.mode = some m ∧ f m = .next t := by
  unfold inMode at h
  split at h
  · next m e => exact ⟨m, e, h⟩
  · cases h

/-- An exception return that answers a state found an SPSR with an implemented mode (R279). -/
theorem exceptionReturn_eq_next (m : Mode) (v : Word) (s t : State) (h : exceptionReturn m v s = .next t) :
    ∃ p m', s.spsr m = some p ∧ Mode.ofBits (modeField p) = some m' ∧
      t = ({ s with cpsr := p }.redirect v).completed := by
  unfold exceptionReturn at h
  split at h
  · cases h
  · next p e =>
    split at h
    · cases h
    · next m' e' => cases h; exact ⟨p, m', e, e', rfl⟩

theorem exceptionReturn_of_good (m m' : Mode) (v p : Word) (s : State) (h : s.spsr m = some p)
    (h' : Mode.ofBits (modeField p) = some m') :
    exceptionReturn m v s = .next (({ s with cpsr := p }.redirect v).completed) := by
  simp [exceptionReturn, h, h']

/-! The coprocessor bank -/

theorem writeCp15_eq_some (s t : State) (id : Cp15Id) (v : Word) (h : s.writeCp15 id v = some t) :
    (∃ r, cellGet (cp15Number id) s.cfg.cp15 = some r) ∧
      t = { s with cp15 := cellSet (cp15Number id) v s.cp15 } := by
  unfold State.writeCp15 at h
  split at h
  · next r e => cases h; exact ⟨⟨r, e⟩, rfl⟩
  · cases h

/-- What was written to a register of the bank is read back (R40). -/
theorem readCp15_of_writeCp15 (s t : State) (id : Cp15Id) (v : Word) (h : s.writeCp15 id v = some t) :
    t.readCp15 id = some v := by
  obtain ⟨⟨r, hr⟩, rfl⟩ := writeCp15_eq_some s t id v h
  simp [State.readCp15, hr]

/-! The decoder's wrapper -/

/-- The decoder answers an instruction exactly when a pattern matches and no exclusion applies. -/
theorem decodeWord_eq_ok (w : Word) (i : Instr) :
    decodeWord w = .ok i ↔ matchPattern w.toNat = some i ∧ i.wf = true := by
  unfold decodeWord
  split
  · next j e =>
    rw [e]
    split
    · next h => constructor
                · intro hh; cases hh; exact ⟨rfl, h⟩
                · rintro ⟨hh, _⟩; cases hh; rfl
    · next h => constructor
                · intro hh; cases hh
                · rintro ⟨hh, hw⟩; cases hh; exact absurd hw h
  · next e => simp [e]

theorem decodeWord_wf (w : Word) (i : Instr) (h : decodeWord w = .ok i) : i.wf = true :=
  ((decodeWord_eq_ok w i).1 h).2

end Sys2Proof.Machine
end

