-- ==== Sys2Proof/Laws/Exec.lean ====
section
/-! SUPPORT. `exec` of a family is its shared operation, and what each shared operation can answer. -/

namespace Sys2Proof.Machine

/-- Every data-processing instruction is the common execution of R159. -/
theorem exec_dataProc (op : DpOp) (c : Cond) (sf : Bool) (rn rd : Reg) (o : Operand2) (s : State) :
    exec (Instr.dataProc op c sf rn rd o) s = dataProcessing op c (sf || op.isTest) rn rd o s := by
  cases op <;> cases o <;> cases sf <;> rfl

theorem exec_load (ix : Index) (c : Cond) (up : Bool) (rn rd : Reg) (off : BitVec 12) (s : State) :
    exec (Instr.memXfer true ix c up rn rd off) s = loadWord (busOf s.cfg) ix c up rn rd off s := by
  cases ix <;> rfl

theorem exec_store (ix : Index) (c : Cond) (up : Bool) (rn rd : Reg) (off : BitVec 12) (s : State) :
    exec (Instr.memXfer false ix c up rn rd off) s = storeWord (busOf s.cfg) ix c up rn rd off s := by
  cases ix <;> rfl

theorem execOn_load (bus : Bus BusContents) (ix : Index) (c : Cond) (up : Bool) (rn rd : Reg) (off : BitVec 12)
    (s : State) : execOn bus (Instr.memXfer true ix c up rn rd off) s = loadWord bus ix c up rn rd off s := by
  cases ix <;> rfl

theorem execOn_store (bus : Bus BusContents) (ix : Index) (c : Cond) (up : Bool) (rn rd : Reg) (off : BitVec 12)
    (s : State) : execOn bus (Instr.memXfer false ix c up rn rd off) s = storeWord bus ix c up rn rd off s := by
  cases ix <;> rfl

/-- `exec` is the execution with the bus that the parameters choose. -/
@[simp] theorem execOn_busOf (i : Instr) (s : State) : execOn (busOf s.cfg) i s = exec i s := by
  cases i <;> rfl

@[simp] theorem Instr.cond_dataProc (op : DpOp) (c : Cond) (sf : Bool) (rn rd : Reg) (o : Operand2) :
    (Instr.dataProc op c sf rn rd o).cond = c := by
  cases op <;> cases o <;> rfl

@[simp] theorem Instr.cond_memXfer (load : Bool) (ix : Index) (c : Cond) (up : Bool) (rn rd : Reg)
    (off : BitVec 12) : (Instr.memXfer load ix c up rn rd off).cond = c := by
  cases load <;> cases ix <;> rfl

/-- Every instruction is of one of these shapes: a proof about all instructions splits here. -/
theorem Instr.shapes (i : Instr) :
    (∃ op c sf rn rd o, i = Instr.dataProc op c sf rn rd o) ∨
    (∃ load ix c up rn rd off, i = Instr.memXfer load ix c up rn rd off) ∨
    (∃ c n, i = .b c n) ∨ (∃ c n, i = .bl c n) ∨ (∃ c rm, i = .bx c rm) ∨
    (∃ c sf rd rn rs rm, i = .mul c sf rd rn rs rm) ∨ (∃ c sf rd rn rs rm, i = .mla c sf rd rn rs rm) ∨
    (∃ c sp rd, i = .mrs c sp rd) ∨ (∃ c mask rm, i = .msr c mask rm) ∨ (∃ c n, i = .swi c n) ∨
    (∃ c, i = .wfi c) ∨ (∃ c id rd, i = .mrc c id rd) ∨ (∃ c id rd, i = .mcr c id rd) := by
  cases i
  case andImm c sf rn rd k v => exact .inl ⟨.and, c, sf, rn, rd, .imm k v, rfl⟩
  case andRegImm c sf rn rd rm y k => exact .inl ⟨.and, c, sf, rn, rd, .regImm rm y k, rfl⟩
  case andRegReg c sf rn rd rm y k => exact .inl ⟨.and, c, sf, rn, rd, .regReg rm y k, rfl⟩
  case eorImm c sf rn rd k v => exact .inl ⟨.eor, c, sf, rn, rd, .imm k v, rfl⟩
  case eorRegImm c sf rn rd rm y k => exact .inl ⟨.eor, c, sf, rn, rd, .regImm rm y k, rfl⟩
  case eorRegReg c sf rn rd rm y k => exact .inl ⟨.eor, c, sf, rn, rd, .regReg rm y k, rfl⟩
  case subImm c sf rn rd k v => exact .inl ⟨.sub, c, sf, rn, rd, .imm k v, rfl⟩
  case subRegImm c sf rn rd rm y k => exact .inl ⟨.sub, c, sf, rn, rd, .regImm rm y k, rfl⟩
  case subRegReg c sf rn rd rm y k => exact .inl ⟨.sub, c, sf, rn, rd, .regReg rm y k, rfl⟩
  case rsbImm c sf rn rd k v => exact .inl ⟨.rsb, c, sf, rn, rd, .imm k v, rfl⟩
  case rsbRegImm c sf rn rd rm y k => exact .inl ⟨.rsb, c, sf, rn, rd, .regImm rm y k, rfl⟩
  case rsbRegReg c sf rn rd rm y k => exact .inl ⟨.rsb, c, sf, rn, rd, .regReg rm y k, rfl⟩
  case addImm c sf rn rd k v => exact .inl ⟨.add, c, sf, rn, rd, .imm k v, rfl⟩
  case addRegImm c sf rn rd rm y k => exact .inl ⟨.add, c, sf, rn, rd, .regImm rm y k, rfl⟩
  case addRegReg c sf rn rd rm y k => exact .inl ⟨.add, c, sf, rn, rd, .regReg rm y k, rfl⟩
  case adcImm c sf rn rd k v => exact .inl ⟨.adc, c, sf, rn, rd, .imm k v, rfl⟩
  case adcRegImm c sf rn rd rm y k => exact .inl ⟨.adc, c, sf, rn, rd, .regImm rm y k, rfl⟩
  case adcRegReg c sf rn rd rm y k => exact .inl ⟨.adc, c, sf, rn, rd, .regReg rm y k, rfl⟩
  case sbcImm c sf rn rd k v => exact .inl ⟨.sbc, c, sf, rn, rd, .imm k v, rfl⟩
  case sbcRegImm c sf rn rd rm y k => exact .inl ⟨.sbc, c, sf, rn, rd, .regImm rm y k, rfl⟩
  case sbcRegReg c sf rn rd rm y k => exact .inl ⟨.sbc, c, sf, rn, rd, .regReg rm y k, rfl⟩
  case tstImm c rn rd k v => exact .inl ⟨.tst, c, true, rn, rd, .imm k v, rfl⟩
  case tstRegImm c rn rd rm y k => exact .inl ⟨.tst, c, true, rn, rd, .regImm rm y k, rfl⟩
  case tstRegReg c rn rd rm y k => exact .inl ⟨.tst, c, true, rn, rd, .regReg rm y k, rfl⟩
  case teqImm c rn rd k v => exact .inl ⟨.teq, c, true, rn, rd, .imm k v, rfl⟩
  case teqRegImm c rn rd rm y k => exact .inl ⟨.teq, c, true, rn, rd, .regImm rm y k, rfl⟩
  case teqRegReg c rn rd rm y k => exact .inl ⟨.teq, c, true, rn, rd, .regReg rm y k, rfl⟩
  case cmpImm c rn rd k v => exact .inl ⟨.cmp, c, true, rn, rd, .imm k v, rfl⟩
  case cmpRegImm c rn rd rm y k => exact .inl ⟨.cmp, c, true, rn, rd, .regImm rm y k, rfl⟩
  case cmpRegReg c rn rd rm y k => exact .inl ⟨.cmp, c, true, rn, rd, .regReg rm y k, rfl⟩
  case cmnImm c rn rd k v => exact .inl ⟨.cmn, c, true, rn, rd, .imm k v, rfl⟩
  case cmnRegImm c rn rd rm y k => exact .inl ⟨.cmn, c, true, rn, rd, .regImm rm y k, rfl⟩
  case cmnRegReg c rn rd rm y k => exact .inl ⟨.cmn, c, true, rn, rd, .regReg rm y k, rfl⟩
  case orrImm c sf rn rd k v => exact .inl ⟨.orr, c, sf, rn, rd, .imm k v, rfl⟩
  case orrRegImm c sf rn rd rm y k => exact .inl ⟨.orr, c, sf, rn, rd, .regImm rm y k, rfl⟩
  case orrRegReg c sf rn rd rm y k => exact .inl ⟨.orr, c, sf, rn, rd, .regReg rm y k, rfl⟩
  case movImm c sf rn rd k v => exact .inl ⟨.mov, c, sf, rn, rd, .imm k v, rfl⟩
  case movRegImm c sf rn rd rm y k => exact .inl ⟨.mov, c, sf, rn, rd, .regImm rm y k, rfl⟩
  case movRegReg c sf rn rd rm y k => exact .inl ⟨.mov, c, sf, rn, rd, .regReg rm y k, rfl⟩
  case bicImm c sf rn rd k v => exact .inl ⟨.bic, c, sf, rn, rd, .imm k v, rfl⟩
  case bicRegImm c sf rn rd rm y k => exact .inl ⟨.bic, c, sf, rn, rd, .regImm rm y k, rfl⟩
  case bicRegReg c sf rn rd rm y k => exact .inl ⟨.bic, c, sf, rn, rd, .regReg rm y k, rfl⟩
  case mvnImm c sf rn rd k v => exact .inl ⟨.mvn, c, sf, rn, rd, .imm k v, rfl⟩
  case mvnRegImm c sf rn rd rm y k => exact .inl ⟨.mvn, c, sf, rn, rd, .regImm rm y k, rfl⟩
  case mvnRegReg c sf rn rd rm y k => exact .inl ⟨.mvn, c, sf, rn, rd, .regReg rm y k, rfl⟩
  case b c n => exact .inr (.inr (.inl ⟨c, n, rfl⟩))
  case bl c n => exact .inr (.inr (.inr (.inl ⟨c, n, rfl⟩)))
  case bx c rm => exact .inr (.inr (.inr (.inr (.inl ⟨c, rm, rfl⟩))))
  case ldrOffset c up rn rd o => exact .inr (.inl ⟨true, .offset, c, up, rn, rd, o, rfl⟩)
  case ldrPre c up rn rd o => exact .inr (.inl ⟨true, .preIndexed, c, up, rn, rd, o, rfl⟩)
  case ldrPost c up rn rd o => exact .inr (.inl ⟨true, .postIndexed, c, up, rn, rd, o, rfl⟩)
  case strOffset c up rn rd o => exact .inr (.inl ⟨false, .offset, c, up, rn, rd, o, rfl⟩)
  case strPre c up rn rd o => exact .inr (.inl ⟨false, .preIndexed, c, up, rn, rd, o, rfl⟩)
  case strPost c up rn rd o => exact .inr (.inl ⟨false, .postIndexed, c, up, rn, rd, o, rfl⟩)
  case mul c sf rd rn rs rm => exact .inr (.inr (.inr (.inr (.inr (.inl ⟨c, sf, rd, rn, rs, rm, rfl⟩)))))
  case mla c sf rd rn rs rm => exact .inr (.inr (.inr (.inr (.inr (.inr (.inl ⟨c, sf, rd, rn, rs, rm, rfl⟩))))))
  case mrs c sp rd => exact .inr (.inr (.inr (.inr (.inr (.inr (.inr (.inl ⟨c, sp, rd, rfl⟩)))))))
  case msr c k rm => exact .inr (.inr (.inr (.inr (.inr (.inr (.inr (.inr (.inl ⟨c, k, rm, rfl⟩))))))))
  case swi c n => exact .inr (.inr (.inr (.inr (.inr (.inr (.inr (.inr (.inr (.inl ⟨c, n, rfl⟩)))))))))
  case wfi c => exact .inr (.inr (.inr (.inr (.inr (.inr (.inr (.inr (.inr (.inr (.inl ⟨c, rfl⟩))))))))))
  case mrc c id rd =>
    exact .inr (.inr (.inr (.inr (.inr (.inr (.inr (.inr (.inr (.inr (.inr (.inl ⟨c, id, rd, rfl⟩)))))))))))
  case mcr c id rd =>
    exact .inr (.inr (.inr (.inr (.inr (.inr (.inr (.inr (.inr (.inr (.inr (.inr ⟨c, id, rd, rfl⟩)))))))))))

/-! What each family's shared operation answers when it answers a next state. -/

theorem dataProcessing_eq_next (op : DpOp) (c : Cond) (sf : Bool) (rn rd : Reg) (o : Operand2) (s t : State)
    (h : dataProcessing op c sf rn rd o s = .next t) :
    (conditionPassed c s.cpsr = false ∧ t = s.skipped) ∨
    (conditionPassed c s.cpsr = true ∧ ∃ m, s.mode = some m ∧
      ((op = .mov ∧ sf = true ∧ rd = 15 ∧ m.privileged = true ∧ ∃ p m', s.spsr m = some p ∧
          Mode.ofBits (modeField p) = some m' ∧
          t = ({ s with cpsr := p }.redirect (shifterOperand m o s).value).completed) ∨
       (¬(op = .mov ∧ sf = true ∧ rd = 15 ∧ m.privileged = true) ∧
          t = dataProcCommit op sf m rd (alu op (s.readReg m rn) (shifterOperand m o s).value
            (shifterOperand m o s).carry s.cpsr) s))) := by
  unfold dataProcessing at h
  rcases whenPassed_cases c s _ with ⟨hc, e⟩ | ⟨hc, e⟩
  · rw [e] at h
    obtain ⟨m, hm, h⟩ := inMode_eq_next _ _ _ h
    refine .inr ⟨hc, m, hm, ?_⟩
    dsimp only at h
    split at h
    · next g =>
      obtain ⟨p, m', h1, h2, h3⟩ := exceptionReturn_eq_next _ _ _ _ h
      refine .inl ⟨g.1, g.2.1, g.2.2.1, g.2.2.2, p, m', h1, h2, ?_⟩
      rw [h3, g.1]
      rfl
    · next g => cases h; exact .inr ⟨g, rfl⟩
  · rw [e] at h; cases h; exact .inl ⟨hc, rfl⟩

theorem loadWord_eq_next (bus : Bus BusContents) (ix : Index) (c : Cond) (up : Bool) (rn rd : Reg)
    (off : BitVec 12) (s t : State) (h : loadWord bus ix c up rn rd off s = .next t) :
    (conditionPassed c s.cpsr = false ∧ t = s.skipped) ∨
    (conditionPassed c s.cpsr = true ∧ ∃ m v u, s.mode = some m ∧
      memRead bus .load (accessAddress ix (s.readReg m rn) up off) s = .ok (v, u) ∧
      t = ((u.writeBack m ix rn (updatedAddress (s.readReg m rn) up off)).writeDest m rd v).completed) := by
  unfold loadWord at h
  rcases whenPassed_cases c s _ with ⟨hc, e⟩ | ⟨hc, e⟩
  · rw [e] at h
    obtain ⟨m, hm, h⟩ := inMode_eq_next _ _ _ h
    dsimp only at h
    split at h
    · cases h
    · next v u hv => cases h; exact .inr ⟨hc, m, v, u, hm, hv, rfl⟩
  · rw [e] at h; cases h; exact .inl ⟨hc, rfl⟩

theorem storeWord_eq_next (bus : Bus BusContents) (ix : Index) (c : Cond) (up : Bool) (rn rd : Reg)
    (off : BitVec 12) (s t : State) (h : storeWord bus ix c up rn rd off s = .next t) :
    (conditionPassed c s.cpsr = false ∧ t = s.skipped) ∨
    (conditionPassed c s.cpsr = true ∧ ∃ m u, s.mode = some m ∧
      memWrite bus (accessAddress ix (s.readReg m rn) up off) (s.readReg m rd) s = .ok u ∧
      t = ((u.writeBack m ix rn (updatedAddress (s.readReg m rn) up off)).advance).completed) := by
  unfold storeWord at h
  rcases whenPassed_cases c s _ with ⟨hc, e⟩ | ⟨hc, e⟩
  · rw [e] at h
    obtain ⟨m, hm, h⟩ := inMode_eq_next _ _ _ h
    dsimp only at h
    split at h
    · cases h
    · next u hu => cases h; exact .inr ⟨hc, m, u, hm, hu, rfl⟩
  · rw [e] at h; cases h; exact .inl ⟨hc, rfl⟩

/-- A fetch that answers a word changed at most what stands behind the bus. -/
theorem fetch_eq_ok (bus : Bus BusContents) (s u : State) (w : Word) :
    fetch bus s = .ok (w, u) ↔ ∃ c, bus.read32 s.pc s.contents = .value (w, c) ∧ u = s.withContents c :=
  memRead_eq_ok bus .fetch s.pc w s u

theorem fetchExecute_eq_next (bus : Bus BusContents) (execute : Instr → State → Result) (s t : State)
    (h : fetchExecute bus execute s = .next t) :
    ∃ w u, fetch bus s = .ok (w, u) ∧ (((∃ e, decodeWord w = .error e) ∧ t = raiseUndefined u) ∨
      ∃ i, decodeWord w = .ok i ∧ execute i u = .next t) := by
  unfold fetchExecute at h
  split at h
  · cases h
  · next w u hw =>
    split at h
    · next e he => cases h; exact ⟨w, u, hw, .inl ⟨⟨e, he⟩, rfl⟩⟩
    · next i hi => exact ⟨w, u, hw, .inr ⟨i, hi, h⟩⟩

/-- The fetch and the instruction with the bus the parameters choose, the bus given as an argument. -/
theorem fetchExecute_execOn (s : State) :
    fetchExecute (busOf s.cfg) (execOn (busOf s.cfg)) s = fetchExecute (busOf s.cfg) exec s := by
  unfold fetchExecute
  split
  · rfl
  · next w u hw =>
    obtain ⟨c, -, rfl⟩ := (fetch_eq_ok _ _ _ _).1 hw
    split
    · rfl
    · exact execOn_busOf _ (s.withContents c)

/-- The step is the step function of R60 with the bus that the parameters choose as its argument. -/
theorem step_eq_stepOn (s : State) : step s = stepOn (busOf s.cfg) s := by
  unfold step stepOn stepWith
  split
  · rfl
  · exact (fetchExecute_execOn { s with run := .running }).symm
  · exact (fetchExecute_execOn s).symm

/-- A bus that answers the fetch with a word that decodes: the step is the instruction (R130). -/
theorem fetchExecute_of_decode (bus : Bus BusContents) (execute : Instr → State → Result) (s : State)
    (w : Word) (c : BusContents) (i : Instr) (hr : bus.read32 s.pc s.contents = .value (w, c))
    (hi : decodeWord w = .ok i) : fetchExecute bus execute s = execute i (s.withContents c) := by
  simp [fetchExecute, (fetch_eq_ok bus s (s.withContents c) w).2 ⟨c, hr, rfl⟩, hi]

/-- What a step that answers a state did: idle, the Undefined trap, or one instruction, in a Running
state after the fetch (R130). -/
theorem step_eq_next (s t : State) (h : step s = .next t) :
    (s.run = .halted ∧ s.irqPending = false ∧ t = idle s) ∨
    ((s.run = .running ∨ (s.run = .halted ∧ s.irqPending = true)) ∧
      ∃ w u, fetch (busOf s.cfg) { s with run := .running } = .ok (w, u) ∧
        (((∃ e, decodeWord w = .error e) ∧ t = raiseUndefined u) ∨
          ∃ i, decodeWord w = .ok i ∧ exec i u = .next t)) := by
  unfold step stepWith at h
  split at h
  · next a b => cases h; exact .inl ⟨a, b, rfl⟩
  · next a b => exact .inr ⟨.inr ⟨a, b⟩, fetchExecute_eq_next _ _ _ _ h⟩
  · next a =>
    have e : ({ s with run := .running } : State) = s := by rw [← a]
    rw [e]
    exact .inr ⟨.inl a, fetchExecute_eq_next _ _ _ _ h⟩

end Sys2Proof.Machine
end

