-- ==== Sys2Proof/Laws/Instructions.lean ====
section
/-! SUPPORT. What each instruction outside data processing and loads and stores answers when it answers a
next state: skipped, or its own effect. -/

namespace Sys2Proof.Machine

/-- A meaning that reads the mode, under a condition: skipped, or its body in the current mode. -/
theorem whenPassed_inMode_eq_next (c : Cond) (s t : State) (f : Mode → Result)
    (h : whenPassed c s (inMode s f) = .next t) :
    (conditionPassed c s.cpsr = false ∧ t = s.skipped) ∨
    (conditionPassed c s.cpsr = true ∧ ∃ m, s.mode = some m ∧ f m = .next t) := by
  rcases whenPassed_cases c s (inMode s f) with ⟨hc, e⟩ | ⟨hc, e⟩
  · rw [e] at h; exact .inr ⟨hc, inMode_eq_next _ _ _ h⟩
  · rw [e] at h; cases h; exact .inl ⟨hc, rfl⟩

/-- A meaning that always answers the state `u`, under a condition. -/
theorem whenPassed_next_eq_next (c : Cond) (s t u : State) (h : whenPassed c s (.next u) = .next t) :
    (conditionPassed c s.cpsr = false ∧ t = s.skipped) ∨ (conditionPassed c s.cpsr = true ∧ t = u) := by
  rcases whenPassed_cases c s (.next u) with ⟨hc, e⟩ | ⟨hc, e⟩
  · rw [e] at h; cases h; exact .inr ⟨hc, rfl⟩
  · rw [e] at h; cases h; exact .inl ⟨hc, rfl⟩

theorem execB_eq_next (c : Cond) (n : BitVec 24) (s t : State) (h : exec (.b c n) s = .next t) :
    (conditionPassed c s.cpsr = false ∧ t = s.skipped) ∨
    (conditionPassed c s.cpsr = true ∧ t = (s.redirect (branchTarget s.pc n)).completed) :=
  whenPassed_next_eq_next _ _ _ _ h

theorem execBl_eq_next (c : Cond) (n : BitVec 24) (s t : State) (h : exec (.bl c n) s = .next t) :
    (conditionPassed c s.cpsr = false ∧ t = s.skipped) ∨
    (conditionPassed c s.cpsr = true ∧ ∃ m, s.mode = some m ∧
      t = ((s.writeReg m 14 (s.pc + 4#32)).redirect (branchTarget s.pc n)).completed) := by
  rcases whenPassed_inMode_eq_next _ _ _ _ h with e | ⟨hc, m, hm, e⟩
  · exact .inl e
  · cases e; exact .inr ⟨hc, m, hm, rfl⟩

theorem execBx_eq_next (c : Cond) (rm : Reg) (s t : State) (h : exec (.bx c rm) s = .next t) :
    (conditionPassed c s.cpsr = false ∧ t = s.skipped) ∨
    (conditionPassed c s.cpsr = true ∧ ∃ m, s.mode = some m ∧
      t = ({ s with cpsr := withBit s.cpsr 5 ((s.readReg m rm).getLsbD 0) }.redirect
        (s.readReg m rm &&& 0xFFFFFFFE#32)).completed) := by
  rcases whenPassed_inMode_eq_next _ _ _ _ h with e | ⟨hc, m, hm, e⟩
  · exact .inl e
  · cases e; exact .inr ⟨hc, m, hm, rfl⟩

theorem execMul_eq_next (c : Cond) (sf : Bool) (rd rn rs rm : Reg) (s t : State)
    (h : exec (.mul c sf rd rn rs rm) s = .next t) :
    (conditionPassed c s.cpsr = false ∧ t = s.skipped) ∨
    (conditionPassed c s.cpsr = true ∧ ∃ m, s.mode = some m ∧
      t = multiplyCommit sf m rd (BitVec.ofNat 32 ((s.readReg m rm).toNat * (s.readReg m rs).toNat)) s) := by
  rcases whenPassed_inMode_eq_next _ _ _ _ h with e | ⟨hc, m, hm, e⟩
  · exact .inl e
  · cases e; exact .inr ⟨hc, m, hm, rfl⟩

theorem execMla_eq_next (c : Cond) (sf : Bool) (rd rn rs rm : Reg) (s t : State)
    (h : exec (.mla c sf rd rn rs rm) s = .next t) :
    (conditionPassed c s.cpsr = false ∧ t = s.skipped) ∨
    (conditionPassed c s.cpsr = true ∧ ∃ m, s.mode = some m ∧
      t = multiplyCommit sf m rd
        (BitVec.ofNat 32 ((s.readReg m rm).toNat * (s.readReg m rs).toNat + (s.readReg m rn).toNat)) s) := by
  rcases whenPassed_inMode_eq_next _ _ _ _ h with e | ⟨hc, m, hm, e⟩
  · exact .inl e
  · cases e; exact .inr ⟨hc, m, hm, rfl⟩

theorem execMrs_eq_next (c : Cond) (sp : Bool) (rd : Reg) (s t : State) (h : exec (.mrs c sp rd) s = .next t) :
    (conditionPassed c s.cpsr = false ∧ t = s.skipped) ∨
    (conditionPassed c s.cpsr = true ∧ ∃ m v, s.mode = some m ∧
      (if sp then s.spsr m = some v else v = s.cpsr) ∧ t = (s.writeDest m rd v).completed) := by
  rcases whenPassed_inMode_eq_next _ _ _ _ h with e | ⟨hc, m, hm, e⟩
  · exact .inl e
  · refine .inr ⟨hc, m, ?_⟩
    cases sp
    · simp only [Bool.false_eq_true, if_false] at e ⊢
      cases e; exact ⟨_, hm, rfl, rfl⟩
    · simp only [if_true] at e ⊢
      split at e
      · next v hv => cases e; exact ⟨v, hm, hv, rfl⟩
      · cases e

/-- The flags write of MSR touches bits 31 to 28 alone (R245). -/
theorem getLsbD_withFlagsOf (p v : Word) (j : Nat) :
    (withFlagsOf p v).getLsbD j = if 28 ≤ j then v.getLsbD j else p.getLsbD j := by
  unfold withFlagsOf
  rw [getLsbD_withBit _ _ _ _ (by omega), getLsbD_withBit _ _ _ _ (by omega),
    getLsbD_withBit _ _ _ _ (by omega), getLsbD_withBit _ _ _ _ (by omega)]
  by_cases hj : 28 ≤ j
  · rw [if_pos hj]
    by_cases h32 : j < 32
    · rcases (by omega : j = 28 ∨ j = 29 ∨ j = 30 ∨ j = 31) with rfl | rfl | rfl | rfl <;> rfl
    · rw [if_neg (by omega), if_neg (by omega), if_neg (by omega), if_neg (by omega),
        BitVec.getLsbD_of_ge _ _ (by omega), BitVec.getLsbD_of_ge _ _ (by omega)]
  · rw [if_neg hj, if_neg (by omega), if_neg (by omega), if_neg (by omega), if_neg (by omega)]

/-- The status word an MSR leaves (R245). -/
theorem execMsr_eq_next (c : Cond) (mask : BitVec 4) (rm : Reg) (s t : State)
    (h : exec (.msr c mask rm) s = .next t) :
    (conditionPassed c s.cpsr = false ∧ t = s.skipped) ∨
    (conditionPassed c s.cpsr = true ∧ ∃ m p, s.mode = some m ∧
      (mask.getLsbD 0 = true → m.privileged = true → ∃ m', Mode.ofBits (modeField (s.readReg m rm)) = some m') ∧
      (∀ j, p.getLsbD j = if 28 ≤ j ∧ mask.getLsbD 3 = true then (s.readReg m rm).getLsbD j
        else if j < 5 ∧ mask.getLsbD 0 = true ∧ m.privileged = true then (s.readReg m rm).getLsbD j
        else s.cpsr.getLsbD j) ∧
      t = ({ s with cpsr := p }.advance).completed) := by
  rcases whenPassed_inMode_eq_next _ _ _ _ h with e | ⟨hc, m, hm, e⟩
  · exact .inl e
  · refine .inr ⟨hc, m, ?_⟩
    dsimp only at e
    split at e
    · cases e
    · next g =>
      cases e
      refine ⟨_, hm, fun h0 hp => ?_, fun j => ?_, rfl⟩
      · cases e : Mode.ofBits (modeField (s.readReg m rm)) with
        | none => exact absurd ⟨by rw [h0, hp]; rfl, e⟩ g
        | some m' => exact ⟨m', rfl⟩
      · generalize s.readReg m rm = v
        have flags : (if mask.getLsbD 3 then withFlagsOf s.cpsr v else s.cpsr).getLsbD j =
            if 28 ≤ j ∧ mask.getLsbD 3 = true then v.getLsbD j else s.cpsr.getLsbD j := by
          split
          · next h3 =>
            rw [getLsbD_withFlagsOf]
            by_cases hj : 28 ≤ j
            · rw [if_pos hj, if_pos ⟨hj, h3⟩]
            · rw [if_neg hj, if_neg (fun g => hj g.1)]
          · next h3 => rw [if_neg (fun g => h3 g.2)]
        by_cases hw : (mask.getLsbD 0 && m.privileged) = true
        · rw [if_pos hw, getLsbD_withModeField, flags]
          simp only [Bool.and_eq_true] at hw
          by_cases h5 : j < 5
          · rw [if_pos h5, getLsbD_modeField, if_neg (by omega), if_pos ⟨h5, hw⟩, decide_eq_true h5, Bool.true_and]
          · rw [if_neg h5, if_neg (c := j < 5 ∧ _) (fun g => h5 g.1)]
        · rw [if_neg hw, flags]
          have : ¬(j < 5 ∧ mask.getLsbD 0 = true ∧ m.privileged = true) := by
            rintro ⟨-, a, b⟩; exact hw (by rw [a, b]; rfl)
          rw [if_neg this]

theorem execSwi_eq_next (c : Cond) (n : BitVec 24) (s t : State) (h : exec (.swi c n) s = .next t) :
    (conditionPassed c s.cpsr = false ∧ t = s.skipped) ∨
    (conditionPassed c s.cpsr = true ∧ t = raiseSoftwareInterrupt n s) :=
  whenPassed_next_eq_next _ _ _ _ h

theorem execWfi_eq_next (c : Cond) (s t : State) (h : exec (.wfi c) s = .next t) :
    (conditionPassed c s.cpsr = false ∧ t = s.skipped) ∨
    (conditionPassed c s.cpsr = true ∧ t = ({ s with run := .halted }.advance).completed) :=
  whenPassed_next_eq_next _ _ _ _ h

theorem execMrc_eq_next (c : Cond) (id : Cp15Id) (rd : Reg) (s t : State) (h : exec (.mrc c id rd) s = .next t) :
    (conditionPassed c s.cpsr = false ∧ t = s.skipped) ∨
    (conditionPassed c s.cpsr = true ∧ ∃ m v, s.mode = some m ∧ s.readCp15 id = some v ∧
      t = (s.writeDest m rd v).completed) := by
  rcases whenPassed_inMode_eq_next _ _ _ _ h with e | ⟨hc, m, hm, e⟩
  · exact .inl e
  · split at e
    · next v hv => cases e; exact .inr ⟨hc, m, v, hm, hv, rfl⟩
    · cases e

theorem execMcr_eq_next (c : Cond) (id : Cp15Id) (rd : Reg) (s t : State) (h : exec (.mcr c id rd) s = .next t) :
    (conditionPassed c s.cpsr = false ∧ t = s.skipped) ∨
    (conditionPassed c s.cpsr = true ∧ ∃ m, s.mode = some m ∧
      (∃ r, cellGet (cp15Number id) s.cfg.cp15 = some r) ∧
      t = ({ s with cp15 := cellSet (cp15Number id) (s.readReg m rd) s.cp15 }.advance).completed) := by
  rcases whenPassed_inMode_eq_next _ _ _ _ h with e | ⟨hc, m, hm, e⟩
  · exact .inl e
  · split at e
    · next u hu =>
      obtain ⟨hr, rfl⟩ := writeCp15_eq_some _ _ _ _ hu
      cases e; exact .inr ⟨hc, m, hm, hr, rfl⟩
    · cases e

end Sys2Proof.Machine
end

