-- ==== Sys2Proof/Laws/PerInstr.lean ====
section
/-! SUPPORT. Statements made for every instruction, one lemma per constructor. `EncodedCondition`: the
condition of an instruction is `bits[31:28]` of its word (spec/30_encoding.md R91). -/

namespace Sys2Proof.Laws

theorem code_lt (c : Cond) : c.code < 16 := by cases c <;> decide
theorem dpCode_lt (op : DpOp) : op.code < 16 := by cases op <;> decide
theorem shiftCode_lt (y : ShiftType) : y.code < 4 := by cases y <;> decide

/-- A word whose number is `c * 2 ^ 28` plus a smaller rest has `c` in its top four bits. -/
theorem top_of_eq (n rest : Nat) (c : Cond) (h : n = c.code * 2 ^ 28 + rest) (hr : rest < 2 ^ 28) :
    (BitVec.ofNat 32 n).toNat / 2 ^ 28 = c.code := by
  have := code_lt c
  rw [BitVec.toNat_ofNat]
  omega

theorem top_encodeDataProc (op : DpOp) (c : Cond) (sf : Bool) (rn rd : Reg) (o : Operand2) :
    (BitVec.ofNat 32 (encodeDataProc op c sf rn rd o)).toNat / 2 ^ 28 = c.code := by
  have := code_lt c
  have := dpCode_lt op
  have : sf.toNat < 2 := by cases sf <;> decide
  rw [BitVec.toNat_ofNat]
  cases o with
  | imm rot imm8 => have := imm8.isLt; simp only [encodeDataProc]; omega
  | regImm rm y k => have := shiftCode_lt y; simp only [encodeDataProc]; omega
  | regReg rm y rs => have := shiftCode_lt y; simp only [encodeDataProc]; omega

theorem top_encodeMemXfer (load : Bool) (ix : Index) (c : Cond) (up : Bool) (rn rd : Reg) (off : BitVec 12) :
    (BitVec.ofNat 32 (encodeMemXfer load ix c up rn rd off)).toNat / 2 ^ 28 = c.code := by
  have := code_lt c
  have := off.isLt
  have : up.toNat < 2 := by cases up <;> decide
  have : load.toNat < 2 := by cases load <;> decide
  rw [BitVec.toNat_ofNat]
  cases ix <;> simp only [encodeMemXfer] <;> omega

theorem top_encodeMultiply (a : Nat) (c : Cond) (sf : Bool) (rd rn rs rm : Reg) (ha : a < 2) :
    (BitVec.ofNat 32 (encodeMultiply a c sf rd rn rs rm)).toNat / 2 ^ 28 = c.code := by
  have := code_lt c
  have : sf.toNat < 2 := by cases sf <;> decide
  rw [BitVec.toNat_ofNat]
  simp only [encodeMultiply]
  omega

theorem top_encodeCoproc (l : Nat) (c : Cond) (id : Cp15Id) (rd : Reg) (hl : l < 2) :
    (BitVec.ofNat 32 (encodeCoproc l c id rd)).toNat / 2 ^ 28 = c.code := by
  have := code_lt c
  rw [BitVec.toNat_ofNat]
  simp only [encodeCoproc]
  omega

/-- The condition of the instruction is the top four bits of its word (R91). -/
def EncodedCondition.Statement (i : Instr) : Prop := (encode i).toNat / 2 ^ 28 = i.cond.code

theorem EncodedCondition.of_number (i : Instr) (n : Nat) (h : encodeNat i = n)
    (ht : (BitVec.ofNat 32 n).toNat / 2 ^ 28 = i.cond.code) : EncodedCondition.Statement i := by
  unfold EncodedCondition.Statement encode
  rw [h, ht]

theorem EncodedCondition.andImm (cond : Cond) (sf : Bool) (rn rd : Reg) (rot : Fin 16) (imm8 : Byte) :
    EncodedCondition.Statement (.andImm cond sf rn rd rot imm8) :=
  EncodedCondition.of_number _ _ (by rfl) (top_encodeDataProc .and cond sf rn rd (.imm rot imm8))

theorem EncodedCondition.andRegImm (cond : Cond) (sf : Bool) (rn rd rm : Reg) (type : ShiftType) (amount : Fin 32) :
    EncodedCondition.Statement (.andRegImm cond sf rn rd rm type amount) :=
  EncodedCondition.of_number _ _ (by rfl) (top_encodeDataProc .and cond sf rn rd (.regImm rm type amount))

theorem EncodedCondition.andRegReg (cond : Cond) (sf : Bool) (rn rd rm : Reg) (type : ShiftType) (rs : Reg) :
    EncodedCondition.Statement (.andRegReg cond sf rn rd rm type rs) :=
  EncodedCondition.of_number _ _ (by rfl) (top_encodeDataProc .and cond sf rn rd (.regReg rm type rs))

theorem EncodedCondition.eorImm (cond : Cond) (sf : Bool) (rn rd : Reg) (rot : Fin 16) (imm8 : Byte) :
    EncodedCondition.Statement (.eorImm cond sf rn rd rot imm8) :=
  EncodedCondition.of_number _ _ (by rfl) (top_encodeDataProc .eor cond sf rn rd (.imm rot imm8))

theorem EncodedCondition.eorRegImm (cond : Cond) (sf : Bool) (rn rd rm : Reg) (type : ShiftType) (amount : Fin 32) :
    EncodedCondition.Statement (.eorRegImm cond sf rn rd rm type amount) :=
  EncodedCondition.of_number _ _ (by rfl) (top_encodeDataProc .eor cond sf rn rd (.regImm rm type amount))

theorem EncodedCondition.eorRegReg (cond : Cond) (sf : Bool) (rn rd rm : Reg) (type : ShiftType) (rs : Reg) :
    EncodedCondition.Statement (.eorRegReg cond sf rn rd rm type rs) :=
  EncodedCondition.of_number _ _ (by rfl) (top_encodeDataProc .eor cond sf rn rd (.regReg rm type rs))

theorem EncodedCondition.subImm (cond : Cond) (sf : Bool) (rn rd : Reg) (rot : Fin 16) (imm8 : Byte) :
    EncodedCondition.Statement (.subImm cond sf rn rd rot imm8) :=
  EncodedCondition.of_number _ _ (by rfl) (top_encodeDataProc .sub cond sf rn rd (.imm rot imm8))

theorem EncodedCondition.subRegImm (cond : Cond) (sf : Bool) (rn rd rm : Reg) (type : ShiftType) (amount : Fin 32) :
    EncodedCondition.Statement (.subRegImm cond sf rn rd rm type amount) :=
  EncodedCondition.of_number _ _ (by rfl) (top_encodeDataProc .sub cond sf rn rd (.regImm rm type amount))

theorem EncodedCondition.subRegReg (cond : Cond) (sf : Bool) (rn rd rm : Reg) (type : ShiftType) (rs : Reg) :
    EncodedCondition.Statement (.subRegReg cond sf rn rd rm type rs) :=
  EncodedCondition.of_number _ _ (by rfl) (top_encodeDataProc .sub cond sf rn rd (.regReg rm type rs))

theorem EncodedCondition.rsbImm (cond : Cond) (sf : Bool) (rn rd : Reg) (rot : Fin 16) (imm8 : Byte) :
    EncodedCondition.Statement (.rsbImm cond sf rn rd rot imm8) :=
  EncodedCondition.of_number _ _ (by rfl) (top_encodeDataProc .rsb cond sf rn rd (.imm rot imm8))

theorem EncodedCondition.rsbRegImm (cond : Cond) (sf : Bool) (rn rd rm : Reg) (type : ShiftType) (amount : Fin 32) :
    EncodedCondition.Statement (.rsbRegImm cond sf rn rd rm type amount) :=
  EncodedCondition.of_number _ _ (by rfl) (top_encodeDataProc .rsb cond sf rn rd (.regImm rm type amount))

theorem EncodedCondition.rsbRegReg (cond : Cond) (sf : Bool) (rn rd rm : Reg) (type : ShiftType) (rs : Reg) :
    EncodedCondition.Statement (.rsbRegReg cond sf rn rd rm type rs) :=
  EncodedCondition.of_number _ _ (by rfl) (top_encodeDataProc .rsb cond sf rn rd (.regReg rm type rs))

theorem EncodedCondition.addImm (cond : Cond) (sf : Bool) (rn rd : Reg) (rot : Fin 16) (imm8 : Byte) :
    EncodedCondition.Statement (.addImm cond sf rn rd rot imm8) :=
  EncodedCondition.of_number _ _ (by rfl) (top_encodeDataProc .add cond sf rn rd (.imm rot imm8))

theorem EncodedCondition.addRegImm (cond : Cond) (sf : Bool) (rn rd rm : Reg) (type : ShiftType) (amount : Fin 32) :
    EncodedCondition.Statement (.addRegImm cond sf rn rd rm type amount) :=
  EncodedCondition.of_number _ _ (by rfl) (top_encodeDataProc .add cond sf rn rd (.regImm rm type amount))

theorem EncodedCondition.addRegReg (cond : Cond) (sf : Bool) (rn rd rm : Reg) (type : ShiftType) (rs : Reg) :
    EncodedCondition.Statement (.addRegReg cond sf rn rd rm type rs) :=
  EncodedCondition.of_number _ _ (by rfl) (top_encodeDataProc .add cond sf rn rd (.regReg rm type rs))

theorem EncodedCondition.adcImm (cond : Cond) (sf : Bool) (rn rd : Reg) (rot : Fin 16) (imm8 : Byte) :
    EncodedCondition.Statement (.adcImm cond sf rn rd rot imm8) :=
  EncodedCondition.of_number _ _ (by rfl) (top_encodeDataProc .adc cond sf rn rd (.imm rot imm8))

theorem EncodedCondition.adcRegImm (cond : Cond) (sf : Bool) (rn rd rm : Reg) (type : ShiftType) (amount : Fin 32) :
    EncodedCondition.Statement (.adcRegImm cond sf rn rd rm type amount) :=
  EncodedCondition.of_number _ _ (by rfl) (top_encodeDataProc .adc cond sf rn rd (.regImm rm type amount))

theorem EncodedCondition.adcRegReg (cond : Cond) (sf : Bool) (rn rd rm : Reg) (type : ShiftType) (rs : Reg) :
    EncodedCondition.Statement (.adcRegReg cond sf rn rd rm type rs) :=
  EncodedCondition.of_number _ _ (by rfl) (top_encodeDataProc .adc cond sf rn rd (.regReg rm type rs))

theorem EncodedCondition.sbcImm (cond : Cond) (sf : Bool) (rn rd : Reg) (rot : Fin 16) (imm8 : Byte) :
    EncodedCondition.Statement (.sbcImm cond sf rn rd rot imm8) :=
  EncodedCondition.of_number _ _ (by rfl) (top_encodeDataProc .sbc cond sf rn rd (.imm rot imm8))

theorem EncodedCondition.sbcRegImm (cond : Cond) (sf : Bool) (rn rd rm : Reg) (type : ShiftType) (amount : Fin 32) :
    EncodedCondition.Statement (.sbcRegImm cond sf rn rd rm type amount) :=
  EncodedCondition.of_number _ _ (by rfl) (top_encodeDataProc .sbc cond sf rn rd (.regImm rm type amount))

theorem EncodedCondition.sbcRegReg (cond : Cond) (sf : Bool) (rn rd rm : Reg) (type : ShiftType) (rs : Reg) :
    EncodedCondition.Statement (.sbcRegReg cond sf rn rd rm type rs) :=
  EncodedCondition.of_number _ _ (by rfl) (top_encodeDataProc .sbc cond sf rn rd (.regReg rm type rs))

theorem EncodedCondition.tstImm (cond : Cond) (rn rd : Reg) (rot : Fin 16) (imm8 : Byte) :
    EncodedCondition.Statement (.tstImm cond rn rd rot imm8) :=
  EncodedCondition.of_number _ _ (by rfl) (top_encodeDataProc .tst cond true rn rd (.imm rot imm8))

theorem EncodedCondition.tstRegImm (cond : Cond) (rn rd rm : Reg) (type : ShiftType) (amount : Fin 32) :
    EncodedCondition.Statement (.tstRegImm cond rn rd rm type amount) :=
  EncodedCondition.of_number _ _ (by rfl) (top_encodeDataProc .tst cond true rn rd (.regImm rm type amount))

theorem EncodedCondition.tstRegReg (cond : Cond) (rn rd rm : Reg) (type : ShiftType) (rs : Reg) :
    EncodedCondition.Statement (.tstRegReg cond rn rd rm type rs) :=
  EncodedCondition.of_number _ _ (by rfl) (top_encodeDataProc .tst cond true rn rd (.regReg rm type rs))

theorem EncodedCondition.teqImm (cond : Cond) (rn rd : Reg) (rot : Fin 16) (imm8 : Byte) :
    EncodedCondition.Statement (.teqImm cond rn rd rot imm8) :=
  EncodedCondition.of_number _ _ (by rfl) (top_encodeDataProc .teq cond true rn rd (.imm rot imm8))

theorem EncodedCondition.teqRegImm (cond : Cond) (rn rd rm : Reg) (type : ShiftType) (amount : Fin 32) :
    EncodedCondition.Statement (.teqRegImm cond rn rd rm type amount) :=
  EncodedCondition.of_number _ _ (by rfl) (top_encodeDataProc .teq cond true rn rd (.regImm rm type amount))

theorem EncodedCondition.teqRegReg (cond : Cond) (rn rd rm : Reg) (type : ShiftType) (rs : Reg) :
    EncodedCondition.Statement (.teqRegReg cond rn rd rm type rs) :=
  EncodedCondition.of_number _ _ (by rfl) (top_encodeDataProc .teq cond true rn rd (.regReg rm type rs))

theorem EncodedCondition.cmpImm (cond : Cond) (rn rd : Reg) (rot : Fin 16) (imm8 : Byte) :
    EncodedCondition.Statement (.cmpImm cond rn rd rot imm8) :=
  EncodedCondition.of_number _ _ (by rfl) (top_encodeDataProc .cmp cond true rn rd (.imm rot imm8))

theorem EncodedCondition.cmpRegImm (cond : Cond) (rn rd rm : Reg) (type : ShiftType) (amount : Fin 32) :
    EncodedCondition.Statement (.cmpRegImm cond rn rd rm type amount) :=
  EncodedCondition.of_number _ _ (by rfl) (top_encodeDataProc .cmp cond true rn rd (.regImm rm type amount))

theorem EncodedCondition.cmpRegReg (cond : Cond) (rn rd rm : Reg) (type : ShiftType) (rs : Reg) :
    EncodedCondition.Statement (.cmpRegReg cond rn rd rm type rs) :=
  EncodedCondition.of_number _ _ (by rfl) (top_encodeDataProc .cmp cond true rn rd (.regReg rm type rs))

theorem EncodedCondition.cmnImm (cond : Cond) (rn rd : Reg) (rot : Fin 16) (imm8 : Byte) :
    EncodedCondition.Statement (.cmnImm cond rn rd rot imm8) :=
  EncodedCondition.of_number _ _ (by rfl) (top_encodeDataProc .cmn cond true rn rd (.imm rot imm8))

theorem EncodedCondition.cmnRegImm (cond : Cond) (rn rd rm : Reg) (type : ShiftType) (amount : Fin 32) :
    EncodedCondition.Statement (.cmnRegImm cond rn rd rm type amount) :=
  EncodedCondition.of_number _ _ (by rfl) (top_encodeDataProc .cmn cond true rn rd (.regImm rm type amount))

theorem EncodedCondition.cmnRegReg (cond : Cond) (rn rd rm : Reg) (type : ShiftType) (rs : Reg) :
    EncodedCondition.Statement (.cmnRegReg cond rn rd rm type rs) :=
  EncodedCondition.of_number _ _ (by rfl) (top_encodeDataProc .cmn cond true rn rd (.regReg rm type rs))

theorem EncodedCondition.orrImm (cond : Cond) (sf : Bool) (rn rd : Reg) (rot : Fin 16) (imm8 : Byte) :
    EncodedCondition.Statement (.orrImm cond sf rn rd rot imm8) :=
  EncodedCondition.of_number _ _ (by rfl) (top_encodeDataProc .orr cond sf rn rd (.imm rot imm8))

theorem EncodedCondition.orrRegImm (cond : Cond) (sf : Bool) (rn rd rm : Reg) (type : ShiftType) (amount : Fin 32) :
    EncodedCondition.Statement (.orrRegImm cond sf rn rd rm type amount) :=
  EncodedCondition.of_number _ _ (by rfl) (top_encodeDataProc .orr cond sf rn rd (.regImm rm type amount))

theorem EncodedCondition.orrRegReg (cond : Cond) (sf : Bool) (rn rd rm : Reg) (type : ShiftType) (rs : Reg) :
    EncodedCondition.Statement (.orrRegReg cond sf rn rd rm type rs) :=
  EncodedCondition.of_number _ _ (by rfl) (top_encodeDataProc .orr cond sf rn rd (.regReg rm type rs))

theorem EncodedCondition.movImm (cond : Cond) (sf : Bool) (rn rd : Reg) (rot : Fin 16) (imm8 : Byte) :
    EncodedCondition.Statement (.movImm cond sf rn rd rot imm8) :=
  EncodedCondition.of_number _ _ (by rfl) (top_encodeDataProc .mov cond sf rn rd (.imm rot imm8))

theorem EncodedCondition.movRegImm (cond : Cond) (sf : Bool) (rn rd rm : Reg) (type : ShiftType) (amount : Fin 32) :
    EncodedCondition.Statement (.movRegImm cond sf rn rd rm type amount) :=
  EncodedCondition.of_number _ _ (by rfl) (top_encodeDataProc .mov cond sf rn rd (.regImm rm type amount))

theorem EncodedCondition.movRegReg (cond : Cond) (sf : Bool) (rn rd rm : Reg) (type : ShiftType) (rs : Reg) :
    EncodedCondition.Statement (.movRegReg cond sf rn rd rm type rs) :=
  EncodedCondition.of_number _ _ (by rfl) (top_encodeDataProc .mov cond sf rn rd (.regReg rm type rs))

theorem EncodedCondition.bicImm (cond : Cond) (sf : Bool) (rn rd : Reg) (rot : Fin 16) (imm8 : Byte) :
    EncodedCondition.Statement (.bicImm cond sf rn rd rot imm8) :=
  EncodedCondition.of_number _ _ (by rfl) (top_encodeDataProc .bic cond sf rn rd (.imm rot imm8))

theorem EncodedCondition.bicRegImm (cond : Cond) (sf : Bool) (rn rd rm : Reg) (type : ShiftType) (amount : Fin 32) :
    EncodedCondition.Statement (.bicRegImm cond sf rn rd rm type amount) :=
  EncodedCondition.of_number _ _ (by rfl) (top_encodeDataProc .bic cond sf rn rd (.regImm rm type amount))

theorem EncodedCondition.bicRegReg (cond : Cond) (sf : Bool) (rn rd rm : Reg) (type : ShiftType) (rs : Reg) :
    EncodedCondition.Statement (.bicRegReg cond sf rn rd rm type rs) :=
  EncodedCondition.of_number _ _ (by rfl) (top_encodeDataProc .bic cond sf rn rd (.regReg rm type rs))

theorem EncodedCondition.mvnImm (cond : Cond) (sf : Bool) (rn rd : Reg) (rot : Fin 16) (imm8 : Byte) :
    EncodedCondition.Statement (.mvnImm cond sf rn rd rot imm8) :=
  EncodedCondition.of_number _ _ (by rfl) (top_encodeDataProc .mvn cond sf rn rd (.imm rot imm8))

theorem EncodedCondition.mvnRegImm (cond : Cond) (sf : Bool) (rn rd rm : Reg) (type : ShiftType) (amount : Fin 32) :
    EncodedCondition.Statement (.mvnRegImm cond sf rn rd rm type amount) :=
  EncodedCondition.of_number _ _ (by rfl) (top_encodeDataProc .mvn cond sf rn rd (.regImm rm type amount))

theorem EncodedCondition.mvnRegReg (cond : Cond) (sf : Bool) (rn rd rm : Reg) (type : ShiftType) (rs : Reg) :
    EncodedCondition.Statement (.mvnRegReg cond sf rn rd rm type rs) :=
  EncodedCondition.of_number _ _ (by rfl) (top_encodeDataProc .mvn cond sf rn rd (.regReg rm type rs))

theorem EncodedCondition.b (cond : Cond) (imm24 : BitVec 24) :
    EncodedCondition.Statement (.b cond imm24) := by
  have := imm24.isLt
  exact top_of_eq _ _ cond (Nat.add_assoc ..) (by omega)

theorem EncodedCondition.bl (cond : Cond) (imm24 : BitVec 24) :
    EncodedCondition.Statement (.bl cond imm24) := by
  have := imm24.isLt
  exact top_of_eq _ _ cond (Nat.add_assoc ..) (by omega)

theorem EncodedCondition.bx (cond : Cond) (rm : Reg) :
    EncodedCondition.Statement (.bx cond rm) := top_of_eq _ _ cond (Nat.add_assoc ..) (by omega)

theorem EncodedCondition.ldrOffset (cond : Cond) (up : Bool) (rn rd : Reg) (offset12 : BitVec 12) :
    EncodedCondition.Statement (.ldrOffset cond up rn rd offset12) :=
  EncodedCondition.of_number _ _ (by rfl) (top_encodeMemXfer true .offset cond up rn rd offset12)

theorem EncodedCondition.ldrPre (cond : Cond) (up : Bool) (rn rd : Reg) (offset12 : BitVec 12) :
    EncodedCondition.Statement (.ldrPre cond up rn rd offset12) :=
  EncodedCondition.of_number _ _ (by rfl) (top_encodeMemXfer true .preIndexed cond up rn rd offset12)

theorem EncodedCondition.ldrPost (cond : Cond) (up : Bool) (rn rd : Reg) (offset12 : BitVec 12) :
    EncodedCondition.Statement (.ldrPost cond up rn rd offset12) :=
  EncodedCondition.of_number _ _ (by rfl) (top_encodeMemXfer true .postIndexed cond up rn rd offset12)

theorem EncodedCondition.strOffset (cond : Cond) (up : Bool) (rn rd : Reg) (offset12 : BitVec 12) :
    EncodedCondition.Statement (.strOffset cond up rn rd offset12) :=
  EncodedCondition.of_number _ _ (by rfl) (top_encodeMemXfer false .offset cond up rn rd offset12)

theorem EncodedCondition.strPre (cond : Cond) (up : Bool) (rn rd : Reg) (offset12 : BitVec 12) :
    EncodedCondition.Statement (.strPre cond up rn rd offset12) :=
  EncodedCondition.of_number _ _ (by rfl) (top_encodeMemXfer false .preIndexed cond up rn rd offset12)

theorem EncodedCondition.strPost (cond : Cond) (up : Bool) (rn rd : Reg) (offset12 : BitVec 12) :
    EncodedCondition.Statement (.strPost cond up rn rd offset12) :=
  EncodedCondition.of_number _ _ (by rfl) (top_encodeMemXfer false .postIndexed cond up rn rd offset12)

theorem EncodedCondition.mul (cond : Cond) (sf : Bool) (rd rn rs rm : Reg) :
    EncodedCondition.Statement (.mul cond sf rd rn rs rm) :=
  EncodedCondition.of_number _ _ (by rfl) (top_encodeMultiply 0 cond sf rd rn rs rm (by decide))

theorem EncodedCondition.mla (cond : Cond) (sf : Bool) (rd rn rs rm : Reg) :
    EncodedCondition.Statement (.mla cond sf rd rn rs rm) :=
  EncodedCondition.of_number _ _ (by rfl) (top_encodeMultiply 1 cond sf rd rn rs rm (by decide))

theorem EncodedCondition.mrs (cond : Cond) (spsr : Bool) (rd : Reg) :
    EncodedCondition.Statement (.mrs cond spsr rd) := by
  have : spsr.toNat < 2 := by cases spsr <;> decide
  exact top_of_eq _ (0b00010 * 2 ^ 23 + spsr.toNat * 2 ^ 22 + 0b1111 * 2 ^ 16 + rd.val * 2 ^ 12) cond
    (by simp only [encodeNat]; omega) (by omega)

theorem EncodedCondition.msr (cond : Cond) (mask : BitVec 4) (rm : Reg) :
    EncodedCondition.Statement (.msr cond mask rm) := by
  have := mask.isLt
  exact top_of_eq _ (0b00010010 * 2 ^ 20 + mask.toNat * 2 ^ 16 + 0xF00 * 2 ^ 4 + rm.val) cond
    (by simp only [encodeNat]; omega) (by omega)

theorem EncodedCondition.swi (cond : Cond) (imm24 : BitVec 24) :
    EncodedCondition.Statement (.swi cond imm24) := by
  have := imm24.isLt
  exact top_of_eq _ _ cond (Nat.add_assoc ..) (by omega)

theorem EncodedCondition.wfi (cond : Cond) :
    EncodedCondition.Statement (.wfi cond) := top_of_eq _ _ cond rfl (by decide)

theorem EncodedCondition.mrc (cond : Cond) (id : Cp15Id) (rd : Reg) :
    EncodedCondition.Statement (.mrc cond id rd) :=
  EncodedCondition.of_number _ _ (by rfl) (top_encodeCoproc 1 cond id rd (by decide))

theorem EncodedCondition.mcr (cond : Cond) (id : Cp15Id) (rd : Reg) :
    EncodedCondition.Statement (.mcr cond id rd) :=
  EncodedCondition.of_number _ _ (by rfl) (top_encodeCoproc 0 cond id rd (by decide))

end Sys2Proof.Laws
end

