-- ==== Sys2Proof/Tests/Slice0.lean ====
section
/-! SUPPORT. This package's own tests: ill-formed terms, words written out from the encoding tables, one
step of each instruction on a small state (the rows of spec/95_test_vectors.md, named in each comment),
and for every statement with hypotheses a state and operands that meet them. -/

namespace Sys2Proof.Tests
open Sys2Proof Sys2Proof.Machine Sys2Proof.Spec

/-! ## Well-formedness: one ill-formed term per exclusion of R119 -/

theorem test_wf_refuses_regReg_rm15 : Instr.wf (.movRegReg .al false 0 0 15 .lsl 2) = false := by decide
theorem test_wf_refuses_regReg_rs15 : Instr.wf (.movRegReg .al false 0 0 1 .lsl 15) = false := by decide
theorem test_wf_refuses_regReg_rn15 : Instr.wf (.addRegReg .al false 15 0 1 .lsl 2) = false := by decide
theorem test_wf_refuses_regReg_rd15 : Instr.wf (.movRegReg .al false 0 15 1 .lsl 2) = false := by decide
theorem test_wf_allows_unused_fields :
    Instr.wf (.movRegReg .al false 15 0 1 .lsl 2) = true ∧ Instr.wf (.tstRegReg .al 1 15 2 .lsl 3) = true := by
  decide
theorem test_wf_refuses_writeback_same : Instr.wf (.ldrPre .al true 1 1 4) = false ∧
    Instr.wf (.strPost .al true 1 1 4) = false := by decide
theorem test_wf_refuses_writeback_pc : Instr.wf (.ldrPost .al true 15 1 4) = false ∧
    Instr.wf (.strPre .al true 15 1 4) = false := by decide
theorem test_wf_refuses_multiply_pc : Instr.wf (.mul .al false 15 0 1 2) = false ∧
    Instr.wf (.mul .al false 0 0 15 2) = false ∧ Instr.wf (.mla .al false 0 15 1 2) = false ∧
    Instr.wf (.mul .al false 0 15 1 2) = true := by decide
theorem test_wf_refuses_status_pc : Instr.wf (.mrs .al false 15) = false ∧ Instr.wf (.msr .al 9 15) = false := by
  decide
theorem test_wf_refuses_coproc_pc : Instr.wf (.mrc .al { opc1 := 0, crn := 13, crm := 0, opc2 := 3 } 15) = false ∧
    Instr.wf (.mcr .al { opc1 := 0, crn := 13, crm := 0, opc2 := 3 } 15) = false := by decide

/-! ## Decoding: words written out field by field from spec/30_encoding.md -/

/-- R96, R97, R98 with the opcode of R99: cond, class, opcode, S, Rn, Rd, operand2. -/
theorem test_decode_and :
    decodeWord 0b0001_001_0000_0_0001_0101_0011_01000101#32 = .ok (.andImm .ne false 1 5 3 69#8) ∧
    decodeWord 0b0100_000_0000_1_0100_0110_01010_01_0_1000#32 = .ok (.andRegImm .mi true 4 6 8 .lsr 10) ∧
    decodeWord 0b0111_000_0000_0_0111_0111_0100_0_10_1_1001#32 = .ok (.andRegReg .vc false 7 7 9 .asr 4) := by decide
theorem test_decode_eor :
    decodeWord 0b0110_001_0001_1_0010_0111_0100_01101010#32 = .ok (.eorImm .vs true 2 7 4 106#8) ∧
    decodeWord 0b1001_000_0001_0_0101_1000_10001_10_0_1001#32 = .ok (.eorRegImm .ls false 5 8 9 .asr 17) ∧
    decodeWord 0b1100_000_0001_1_1000_1001_0111_0_11_1_1010#32 = .ok (.eorRegReg .gt true 8 9 10 .ror 7) := by decide
theorem test_decode_sub :
    decodeWord 0b1011_001_0010_0_0011_1001_0101_10001111#32 = .ok (.subImm .lt false 3 9 5 143#8) ∧
    decodeWord 0b1110_000_0010_1_0110_1010_11000_11_0_1010#32 = .ok (.subRegImm .al true 6 10 10 .ror 24) ∧
    decodeWord 0b0001_000_0010_0_1001_1011_1010_0_00_1_1011#32 = .ok (.subRegReg .ne false 9 11 11 .lsl 10) := by decide
theorem test_decode_rsb :
    decodeWord 0b0000_001_0011_1_0100_1011_0110_10110100#32 = .ok (.rsbImm .eq true 4 11 6 180#8) ∧
    decodeWord 0b0011_000_0011_0_0111_1100_11111_00_0_1011#32 = .ok (.rsbRegImm .cc false 7 12 11 .lsl 31) ∧
    decodeWord 0b0110_000_0011_1_1010_1101_1101_0_01_1_1100#32 = .ok (.rsbRegReg .vs true 10 13 12 .lsr 13) := by decide
theorem test_decode_add :
    decodeWord 0b0101_001_0100_0_0101_1101_0111_11011001#32 = .ok (.addImm .pl false 5 13 7 217#8) ∧
    decodeWord 0b1000_000_0100_1_1000_1110_00110_01_0_1100#32 = .ok (.addRegImm .hi true 8 14 12 .lsr 6) ∧
    decodeWord 0b1011_000_0100_0_1011_0000_0001_0_10_1_1101#32 = .ok (.addRegReg .lt false 11 0 13 .asr 1) := by decide
theorem test_decode_adc :
    decodeWord 0b1010_001_0101_1_0110_0000_1000_11111110#32 = .ok (.adcImm .ge true 6 0 8 254#8) ∧
    decodeWord 0b1101_000_0101_0_1001_0001_01101_10_0_1101#32 = .ok (.adcRegImm .le false 9 1 13 .asr 13) ∧
    decodeWord 0b0000_000_0101_1_1100_0010_0100_0_11_1_1110#32 = .ok (.adcRegReg .eq true 12 2 14 .ror 4) := by decide
theorem test_decode_sbc :
    decodeWord 0b1111_001_0110_0_0111_0010_1001_00100011#32 = .ok (.sbcImm .nv false 7 2 9 35#8) ∧
    decodeWord 0b0010_000_0110_1_1010_0011_10100_11_0_1110#32 = .ok (.sbcRegImm .cs true 10 3 14 .ror 20) ∧
    decodeWord 0b0101_000_0110_0_1101_0100_0111_0_00_1_0000#32 = .ok (.sbcRegReg .pl false 13 4 0 .lsl 7) := by decide
theorem test_decode_tst :
    decodeWord 0b0100_001_1000_1_1000_0100_1010_01001000#32 = .ok (.tstImm .mi 8 4 10 72#8) ∧
    decodeWord 0b0111_000_1000_1_1011_0101_11011_00_0_0000#32 = .ok (.tstRegImm .vc 11 5 0 .lsl 27) ∧
    decodeWord 0b1010_000_1000_1_1110_0110_1010_0_01_1_0001#32 = .ok (.tstRegReg .ge 14 6 1 .lsr 10) := by decide
theorem test_decode_teq :
    decodeWord 0b1001_001_1001_1_1001_0110_1011_01101101#32 = .ok (.teqImm .ls 9 6 11 109#8) ∧
    decodeWord 0b1100_000_1001_1_1100_0111_00010_01_0_0001#32 = .ok (.teqRegImm .gt 12 7 1 .lsr 2) ∧
    decodeWord 0b1111_000_1001_1_0000_1000_1101_0_10_1_0010#32 = .ok (.teqRegReg .nv 0 8 2 .asr 13) := by decide
theorem test_decode_cmp :
    decodeWord 0b1110_001_1010_1_1010_1000_1100_10010010#32 = .ok (.cmpImm .al 10 8 12 146#8) ∧
    decodeWord 0b0001_000_1010_1_1101_1001_01001_10_0_0010#32 = .ok (.cmpRegImm .ne 13 9 2 .asr 9) ∧
    decodeWord 0b0100_000_1010_1_0001_1010_0001_0_11_1_0011#32 = .ok (.cmpRegReg .mi 1 10 3 .ror 1) := by decide
theorem test_decode_cmn :
    decodeWord 0b0011_001_1011_1_1011_1010_1101_10110111#32 = .ok (.cmnImm .cc 11 10 13 183#8) ∧
    decodeWord 0b0110_000_1011_1_1110_1011_10000_11_0_0011#32 = .ok (.cmnRegImm .vs 14 11 3 .ror 16) ∧
    decodeWord 0b1001_000_1011_1_0010_1100_0100_0_00_1_0100#32 = .ok (.cmnRegReg .ls 2 12 4 .lsl 4) := by decide
theorem test_decode_orr :
    decodeWord 0b1000_001_1100_1_1100_1100_1110_11011100#32 = .ok (.orrImm .hi true 12 12 14 220#8) ∧
    decodeWord 0b1011_000_1100_0_0000_1101_10111_00_0_0100#32 = .ok (.orrRegImm .lt false 0 13 4 .lsl 23) ∧
    decodeWord 0b1110_000_1100_1_0011_1110_0111_0_01_1_0101#32 = .ok (.orrRegReg .al true 3 14 5 .lsr 7) := by decide
theorem test_decode_mov :
    decodeWord 0b1101_001_1101_0_1101_1110_1111_00000001#32 = .ok (.movImm .le false 13 14 15 1#8) ∧
    decodeWord 0b0000_000_1101_1_0001_0000_11110_01_0_0101#32 = .ok (.movRegImm .eq true 1 0 5 .lsr 30) ∧
    decodeWord 0b0011_000_1101_0_0100_0001_1010_0_10_1_0110#32 = .ok (.movRegReg .cc false 4 1 6 .asr 10) := by decide
theorem test_decode_bic :
    decodeWord 0b0010_001_1110_1_1110_0001_0000_00100110#32 = .ok (.bicImm .cs true 14 1 0 38#8) ∧
    decodeWord 0b0101_000_1110_0_0010_0010_00101_10_0_0110#32 = .ok (.bicRegImm .pl false 2 2 6 .asr 5) ∧
    decodeWord 0b1000_000_1110_1_0101_0011_1101_0_11_1_0111#32 = .ok (.bicRegReg .hi true 5 3 7 .ror 13) := by decide
theorem test_decode_mvn :
    decodeWord 0b0111_001_1111_0_0000_0011_0001_01001011#32 = .ok (.mvnImm .vc false 0 3 1 75#8) ∧
    decodeWord 0b1010_000_1111_1_0011_0100_01100_11_0_0111#32 = .ok (.mvnRegImm .ge true 3 4 7 .ror 12) ∧
    decodeWord 0b1101_000_1111_0_0110_0101_0001_0_00_1_1000#32 = .ok (.mvnRegReg .le false 6 5 8 .lsl 1) := by decide

/-- R103: cond, class, P, U, B, W, L, Rn, Rd, offset12. -/
theorem test_decode_ldr :
    decodeWord 0b0000_010_1_0_0_0_1_0011_0110_001000110000#32 = .ok (.ldrOffset .eq false 3 6 560#12) ∧
    decodeWord 0b0001_010_1_1_0_1_1_0100_0111_001101010011#32 = .ok (.ldrPre .ne true 4 7 851#12) ∧
    decodeWord 0b0010_010_0_0_0_0_1_0101_1000_010001110110#32 = .ok (.ldrPost .cs false 5 8 1142#12) := by decide
theorem test_decode_str :
    decodeWord 0b0011_010_1_1_0_0_0_0110_1001_010110011001#32 = .ok (.strOffset .cc true 6 9 1433#12) ∧
    decodeWord 0b0100_010_1_0_0_1_0_0111_1010_011010111100#32 = .ok (.strPre .mi false 7 10 1724#12) ∧
    decodeWord 0b0101_010_0_1_0_0_0_1000_1011_011111011111#32 = .ok (.strPost .pl true 8 11 2015#12) := by decide
/-- R101. -/
theorem test_decode_branch : decodeWord 0b1110_101_0_000000000000000000000110#32 = .ok (.b .al 6#24) ∧
    decodeWord 0b0000_101_1_111111111111111111111110#32 = .ok (.bl .eq 0xFFFFFE#24) := by decide
/-- R102. -/
theorem test_decode_bx : decodeWord 0b0001_0001_0010_1111_1111_1111_0001_1110#32 = .ok (.bx .ne 14) := by decide
/-- R104: Rd, Rn, Rs, Rm from the top. -/
theorem test_decode_multiply :
    decodeWord 0b1110_000000_0_1_0001_0010_0011_1001_0100#32 = .ok (.mul .al true 1 2 3 4) ∧
    decodeWord 0b1010_000000_1_0_0101_0110_0111_1001_1000#32 = .ok (.mla .ge false 5 6 7 8) := by decide
/-- R105, R106. -/
theorem test_decode_status :
    decodeWord 0b1110_00010_0_00_1111_0011_000000000000#32 = .ok (.mrs .al false 3) ∧
    decodeWord 0b1011_00010_1_00_1111_0101_000000000000#32 = .ok (.mrs .lt true 5) ∧
    decodeWord 0b1110_00010_0_10_1001_1111_00000000_0110#32 = .ok (.msr .al 0b1001#4 6) := by decide
/-- R108, R109. -/
theorem test_decode_swi_wfi : decodeWord 0b1110_1111_000100100011010001010110#32 = .ok (.swi .al 0x123456#24) ∧
    decodeWord 0b0000_0011_0010_0000_1111_0000_0000_0011#32 = .ok (.wfi .eq) := by decide
/-- R107: opc1, L, CRn, Rd, cp_num, opc2, 1, CRm. -/
theorem test_decode_coproc :
    decodeWord 0b1110_1110_010_1_1101_0001_1111_011_1_0101#32 =
      .ok (.mrc .al { opc1 := 2, crn := 13, crm := 5, opc2 := 3 } 1) ∧
    decodeWord 0b0111_1110_101_0_0111_0010_1111_100_1_1010#32 =
      .ok (.mcr .vc { opc1 := 5, crn := 7, crm := 10, opc2 := 4 } 2) := by decide

/-- The refused words of 95_test_vectors.md 2.2. -/
def refusedWords : List Word := [
  0xE0E10002#32, 0xE2E10001#32, 0xE1010002#32, 0xE3410000#32, 0xE328F001#32, 0xE169F000#32, 0xE128F011#32, 0xE10F0001#32,
  0xE10FF000#32, 0xE1000000#32, 0xE12FFE1E#32, 0xE12FFF3E#32, 0xE12FFF2E#32, 0xE1200070#32, 0xE16F0F11#32, 0xE320F000#32,
  0xE320F002#32, 0xE320F004#32, 0xE5D10000#32, 0xE7910002#32, 0xE4B10004#32, 0xE1D100B0#32, 0xE1C100D0#32, 0xE8BD8000#32,
  0xE92D4000#32, 0xE1010092#32, 0xE1910F9F#32, 0xE5B11004#32, 0xE4811004#32, 0xE5BF0004#32, 0xE00F0291#32, 0xE020F291#32,
  0xE0810392#32, 0xE0400291#32, 0xE00002B1#32, 0xE08F0211#32, 0xE1A00F11#32, 0xE1A0021F#32, 0xE1A0F211#32, 0xEE1DFF70#32,
  0xEE100E10#32, 0xEE000F00#32, 0xEEB00A40#32, 0xED910A00#32, 0xEC410F00#32, 0xF57FF04F#32, 0xF5D1F000#32, 0xF1010000#32,
  0xE7F000F0#32, 0xE6EF0071#32]

theorem test_refused_words :
    (refusedWords.all fun w => decide (decodeWord w = .error .unsupportedEncoding)) = true := by decide

/-- A decodable word of the 0b1111 condition is an instruction (R121, 95_test_vectors.md 2.2). -/
theorem test_decode_nv : decodeWord 0xFA000000#32 = .ok (.b .nv 0#24) ∧
    decodeWord 0xFFFFFFFF#32 = .ok (.swi .nv 0xFFFFFF#24) := by decide

theorem test_encode_words : encode (.ldrPre .al true 1 0 4#12) = 0xE5B10004#32 ∧
    encode (.mla .al true 0 3 2 1) = 0xE0303291#32 ∧ encode (.msr .al 9#4 0) = 0xE129F000#32 ∧
    encode (.mrc .al { opc1 := 0, crn := 13, crm := 0, opc2 := 3 } 0) = 0xEE1D0F70#32 := by decide

theorem test_decodeTableWord : decodeTableWord 32 0xE3A00001 = some (.movImm .al false 0 0 0 1#8) ∧
    decodeTableWord 32 0xE0E10002 = none := by decide

/-! ## One step -/

/-- A Running state with a status word, the word `w` at `pc`, and registers of its own view. -/
def started (cpsr pc w : Word) (regs : List (Reg × Word)) : State :=
  regs.foldl (fun s x => s.writeReg ((Mode.ofBits (modeField cpsr)).getD .user) x.1 x.2)
    { State.reset with cpsr := cpsr, pc := pc, mem := memSetWord [] pc.toNat w }

/-- The state with a word more in memory. -/
def holding (s : State) (a v : Word) : State := { s with mem := memSetWord s.mem a.toNat v }

/-- The step answers a state with this property. -/
def nextHas (s : State) (p : State → Bool) : Bool :=
  match step s with
  | .next t => p t
  | _ => false

/-- The step ends in this fault. -/
def faults (s : State) (f : Fault) : Bool :=
  match step s with
  | .fault g => decide (g = f)
  | _ => false

/-- Register `i` of the current view, and the status word. -/
def shows (i : Reg) (v cpsr : Word) (t : State) : Bool :=
  decide (t.readReg (t.mode.getD .user) i = v) && decide (t.cpsr = cpsr)

/-- LG1. -/
theorem test_and : nextHas (started 0x30000010#32 0x100#32 0xE0110002#32 [(1, 0xF0F0F0F0#32), (2, 0x0FF00FF0#32)])
    (shows 0 0x00F000F0#32 0x30000010#32) = true := by decide
/-- LG2. -/
theorem test_and_zero : nextHas (started 0x30000010#32 0x100#32 0xE0110002#32 [(1, 0xFFFFFFFF#32), (2, 0x00000000#32)])
    (shows 0 0x00000000#32 0x70000010#32) = true := by decide
/-- LG5. -/
theorem test_eor : nextHas (started 0x30000010#32 0x100#32 0xE0310002#32 [(1, 0xF0F0F0F0#32), (2, 0x0FF00FF0#32)])
    (shows 0 0xFF00FF00#32 0xB0000010#32) = true := by decide
/-- LG7. -/
theorem test_eor_zero : nextHas (started 0x30000010#32 0x100#32 0xE0310002#32 [(1, 0x12345678#32), (2, 0x12345678#32)])
    (shows 0 0x00000000#32 0x70000010#32) = true := by decide
/-- AR35. -/
theorem test_sub_borrow : nextHas (started 0x00000010#32 0x100#32 0xE0510002#32 [(1, 0x00000000#32), (2, 0x00000001#32)])
    (shows 0 0xFFFFFFFF#32 0x80000010#32) = true := by decide
/-- AR36. -/
theorem test_sub_overflow : nextHas (started 0x00000010#32 0x100#32 0xE0510002#32 [(1, 0x80000000#32), (2, 0x00000001#32)])
    (shows 0 0x7FFFFFFF#32 0x30000010#32) = true := by decide
/-- AR62. -/
theorem test_rsb : nextHas (started 0x00000010#32 0x100#32 0xE0710002#32 [(1, 0xFFFFFFFF#32), (2, 0x00000001#32)])
    (shows 0 0x00000002#32 0x00000010#32) = true := by decide
/-- AR66. -/
theorem test_rsb_overflow : nextHas (started 0x00000010#32 0x100#32 0xE0710002#32 [(1, 0x80000000#32), (2, 0x00000001#32)])
    (shows 0 0x80000001#32 0x90000010#32) = true := by decide
/-- AR2. -/
theorem test_add_carry : nextHas (started 0x00000010#32 0x100#32 0xE0910002#32 [(1, 0xFFFFFFFF#32), (2, 0x00000001#32)])
    (shows 0 0x00000000#32 0x60000010#32) = true := by decide
/-- AR3. -/
theorem test_add_overflow : nextHas (started 0x00000010#32 0x100#32 0xE0910002#32 [(1, 0x7FFFFFFF#32), (2, 0x00000001#32)])
    (shows 0 0x80000000#32 0x90000010#32) = true := by decide
/-- AR14. -/
theorem test_adc : nextHas (started 0x20000010#32 0x100#32 0xE0B10002#32 [(1, 0xFFFFFFFF#32), (2, 0x00000001#32)])
    (shows 0 0x00000001#32 0x20000010#32) = true := by decide
/-- AR16. -/
theorem test_adc_overflow : nextHas (started 0x20000010#32 0x100#32 0xE0B10002#32 [(1, 0x7FFFFFFF#32), (2, 0x00000001#32)])
    (shows 0 0x80000001#32 0x90000010#32) = true := by decide
/-- AR41. -/
theorem test_sbc : nextHas (started 0x00000010#32 0x100#32 0xE0D10002#32 [(1, 0x00000000#32), (2, 0x00000000#32)])
    (shows 0 0xFFFFFFFF#32 0x80000010#32) = true := by decide
/-- AR52. -/
theorem test_sbc_overflow : nextHas (started 0x20000010#32 0x100#32 0xE0D10002#32 [(1, 0x80000000#32), (2, 0x00000001#32)])
    (shows 0 0x7FFFFFFF#32 0x30000010#32) = true := by decide
/-- LG28. -/
theorem test_tst : nextHas (started 0x30000010#32 0x100#32 0xE1110002#32 [(1, 0x80000000#32), (2, 0xFFFFFFFF#32)])
    (shows 1 0x80000000#32 0xB0000010#32) = true := by decide
/-- LG31. -/
theorem test_teq : nextHas (started 0x30000010#32 0x100#32 0xE1310002#32 [(1, 0x12345678#32), (2, 0x12345678#32)])
    (shows 1 0x12345678#32 0x70000010#32) = true := by decide
/-- AR75. -/
theorem test_cmp_borrow : nextHas (started 0x00000010#32 0x100#32 0xE1510002#32 [(1, 0x00000000#32), (2, 0x00000001#32)])
    (shows 1 0x00000000#32 0x80000010#32) = true := by decide
/-- AR78. -/
theorem test_cmp_overflow : nextHas (started 0x00000010#32 0x100#32 0xE1510002#32 [(1, 0x7FFFFFFF#32), (2, 0xFFFFFFFF#32)])
    (shows 1 0x7FFFFFFF#32 0x90000010#32) = true := by decide
/-- AR82. -/
theorem test_cmn_carry : nextHas (started 0x00000010#32 0x100#32 0xE1710002#32 [(1, 0xFFFFFFFF#32), (2, 0x00000001#32)])
    (shows 1 0xFFFFFFFF#32 0x60000010#32) = true := by decide
/-- AR83. -/
theorem test_cmn_overflow : nextHas (started 0x00000010#32 0x100#32 0xE1710002#32 [(1, 0x7FFFFFFF#32), (2, 0x00000001#32)])
    (shows 1 0x7FFFFFFF#32 0x90000010#32) = true := by decide
/-- LG9. -/
theorem test_orr : nextHas (started 0x30000010#32 0x100#32 0xE1910002#32 [(1, 0xF0F0F0F0#32), (2, 0x0FF00FF0#32)])
    (shows 0 0xFFF0FFF0#32 0xB0000010#32) = true := by decide
/-- LG20. -/
theorem test_mov : nextHas (started 0x30000010#32 0x100#32 0xE1B00002#32 [(1, 0x80000000#32), (2, 0xFFFFFFFF#32)])
    (shows 0 0xFFFFFFFF#32 0xB0000010#32) = true := by decide
/-- LG13. -/
theorem test_bic : nextHas (started 0x30000010#32 0x100#32 0xE1D10002#32 [(1, 0xF0F0F0F0#32), (2, 0x0FF00FF0#32)])
    (shows 0 0xF000F000#32 0xB0000010#32) = true := by decide
/-- LG16. -/
theorem test_bic_zero : nextHas (started 0x30000010#32 0x100#32 0xE1D10002#32 [(1, 0x80000000#32), (2, 0xFFFFFFFF#32)])
    (shows 0 0x00000000#32 0x70000010#32) = true := by decide
/-- LG21. -/
theorem test_mvn : nextHas (started 0x30000010#32 0x100#32 0xE1F00002#32 [(1, 0xF0F0F0F0#32), (2, 0x0FF00FF0#32)])
    (shows 0 0xF00FF00F#32 0xB0000010#32) = true := by decide
/-- SH3, SH11, SH13, SH17, SH21, SH23. -/
theorem test_shift_imm_and_regImm :
    nextHas (started 0x00000010#32 0x100#32 0xE3B004FF#32 []) (shows 0 0xFF000000#32 0xA0000010#32) = true ∧
    nextHas (started 0x00000010#32 0x100#32 0xE1B00F81#32 [(1, 0x00000003#32)]) (shows 0 0x80000000#32 0xA0000010#32) = true ∧
    nextHas (started 0x00000010#32 0x100#32 0xE1B00021#32 [(1, 0x80000000#32)]) (shows 0 0x00000000#32 0x60000010#32) = true ∧
    nextHas (started 0x00000010#32 0x100#32 0xE1B00041#32 [(1, 0x80000000#32)]) (shows 0 0xFFFFFFFF#32 0xA0000010#32) = true ∧
    nextHas (started 0x20000010#32 0x100#32 0xE1B00061#32 [(1, 0x00000001#32)]) (shows 0 0x80000000#32 0xA0000010#32) = true ∧
    nextHas (started 0x00000010#32 0x100#32 0xE1B00461#32 [(1, 0x000000FF#32)]) (shows 0 0xFF000000#32 0xA0000010#32) = true := by decide
/-- SH26, SH29, SH30, SH32, SH33, SH39, SH40, SH41. -/
theorem test_shift_regReg :
    nextHas (started 0x20000010#32 0x100#32 0xE1B00211#32 [(1, 0x80000001#32), (2, 0x00000100#32)]) (shows 0 0x80000001#32 0xA0000010#32) = true ∧
    nextHas (started 0x00000010#32 0x100#32 0xE1B00211#32 [(1, 0x00000001#32), (2, 0x00000020#32)]) (shows 0 0x00000000#32 0x60000010#32) = true ∧
    nextHas (started 0x20000010#32 0x100#32 0xE1B00211#32 [(1, 0xFFFFFFFF#32), (2, 0x00000021#32)]) (shows 0 0x00000000#32 0x40000010#32) = true ∧
    nextHas (started 0x00000010#32 0x100#32 0xE1B00231#32 [(1, 0x80000000#32), (2, 0x0000001F#32)]) (shows 0 0x00000001#32 0x00000010#32) = true ∧
    nextHas (started 0x00000010#32 0x100#32 0xE1B00231#32 [(1, 0x80000000#32), (2, 0x00000020#32)]) (shows 0 0x00000000#32 0x60000010#32) = true ∧
    nextHas (started 0x00000010#32 0x100#32 0xE1B00251#32 [(1, 0x80000000#32), (2, 0x000000FF#32)]) (shows 0 0xFFFFFFFF#32 0xA0000010#32) = true ∧
    nextHas (started 0x00000010#32 0x100#32 0xE1B00271#32 [(1, 0x80000001#32), (2, 0x00000020#32)]) (shows 0 0x80000001#32 0xA0000010#32) = true ∧
    nextHas (started 0x00000010#32 0x100#32 0xE1B00271#32 [(1, 0x00000001#32), (2, 0x00000021#32)]) (shows 0 0x80000000#32 0xA0000010#32) = true := by decide
/-- DP11: ADDS into r15 in a privileged mode is no exception return. -/
theorem test_adds_pc : nextHas (started 0xD3#32 0x100#32 0xE29EF004#32 [(14, 0x8000#32)])
    (fun t => decide (t.pc = 0x8004#32 ∧ t.cpsr = 0xD3#32)) = true := by decide
/-- DP16: a skipped instruction. -/
theorem test_skip : nextHas (started 0x40000010#32 0x100#32 0x13A00001#32 [(0, 0xAA#32)])
    (fun t => shows 0 0xAA#32 0x40000010#32 t && decide (t.pc = 0x104#32)) = true := by decide
/-- BR2, BR8. -/
theorem test_b : nextHas (started 0x10#32 0x100#32 0xEAFFFFFA#32 []) (fun t => decide (t.pc = 0xF0#32)) = true ∧
    nextHas (started 0x10#32 0xFFFFFFF8#32 0xEA000000#32 []) (fun t => decide (t.pc = 0#32)) = true := by decide
/-- BR12. -/
theorem test_bl : nextHas (started 0xDB#32 0x8000#32 0xEB000002#32 [])
    (fun t => decide (t.r14.und = 0x8004#32 ∧ t.pc = 0x8010#32)) = true := by decide
/-- BR16. -/
theorem test_bx : nextHas (started 0x10#32 0x100#32 0xE12FFF1E#32 [(14, 0x8007#32)])
    (fun t => decide (t.pc = 0x8006#32 ∧ t.cpsr = 0x30#32)) = true := by decide
/-- LS2. -/
theorem test_ldr_offset :
    nextHas (holding (started 0x10#32 0x100#32 0xE5110008#32 [(1, 0x1008#32)]) 0x1000#32 0x55667788#32)
      (fun t => shows 0 0x55667788#32 0x10#32 t && shows 1 0x1008#32 0x10#32 t) = true := by decide
/-- S6. -/
theorem test_ldr_pre :
    nextHas (holding (started 0x10#32 0x100#32 0xE5B10004#32 [(1, 0x1000#32)]) 0x1004#32 0xAAAA5555#32)
      (fun t => shows 0 0xAAAA5555#32 0x10#32 t && shows 1 0x1004#32 0x10#32 t) = true := by decide
/-- S7. -/
theorem test_ldr_post :
    nextHas (holding (started 0x10#32 0x100#32 0xE4910004#32 [(1, 0x1000#32)]) 0x1000#32 0x12345678#32)
      (fun t => shows 0 0x12345678#32 0x10#32 t && shows 1 0x1004#32 0x10#32 t) = true := by decide
/-- LS10: into r15. -/
theorem test_ldr_pc :
    nextHas (holding (started 0x10#32 0x100#32 0xE49DF004#32 [(13, 0x3FFC#32)]) 0x3FFC#32 0x30C#32)
      (fun t => shows 13 0x4000#32 0x10#32 t && decide (t.pc = 0x30C#32)) = true := by decide
/-- LS13, with its byte view. -/
theorem test_str_offset : nextHas (started 0x10#32 0x100#32 0xE5810004#32 [(0, 0xCAFEBABE#32), (1, 0x2000#32)])
    (fun t => decide (memByte t 0x2004 = some 0xBE#8 ∧ memByte t 0x2007 = some 0xCA#8)) = true := by decide
/-- LS14. -/
theorem test_str_pre : nextHas (started 0x10#32 0x100#32 0xE5210004#32 [(0, 0xCAFEBABE#32), (1, 0x2000#32)])
    (fun t => shows 1 0x1FFC#32 0x10#32 t && decide (memWord t.mem 0x1FFC = some 0xCAFEBABE#32)) = true := by decide
/-- LS15. -/
theorem test_str_post : nextHas (started 0x10#32 0x100#32 0xE4810004#32 [(0, 0x01020304#32), (1, 0x2000#32)])
    (fun t => shows 1 0x2004#32 0x10#32 t && decide (memWord t.mem 0x2000 = some 0x01020304#32)) = true := by decide
/-- LS20: misaligned. -/
theorem test_ldr_misaligned : faults (started 0x10#32 0x100#32 0xE5910002#32 [(1, 0x1000#32)])
    (.memoryFault .load 4 0x1002#32) = true := by decide
/-- MU2. -/
theorem test_mul : nextHas (started 0x30000010#32 0x100#32 0xE0100291#32 [(1, 0xFFFFFFFF#32), (2, 0xFFFFFFFF#32)])
    (shows 0 1#32 0x30000010#32) = true := by decide
/-- S8, MU8. -/
theorem test_mla : nextHas (started 0x30000010#32 0x100#32 0xE0303291#32 [(1, 3#32), (2, 4#32), (3, 5#32)])
      (shows 0 17#32 0x30000010#32) = true ∧
    nextHas (started 0x10#32 0x100#32 0xE0303291#32 [(1, 0xFFFFFFFF#32), (2, 1#32), (3, 1#32)])
      (shows 0 0#32 0x40000010#32) = true := by decide
/-- SY1, SY5. -/
theorem test_mrs : nextHas (started 0xA0000010#32 0x100#32 0xE10F0000#32 []) (shows 0 0xA0000010#32 0xA0000010#32) = true ∧
    nextHas { started 0xDB#32 0x100#32 0xE14F0000#32 [] with spsrUnd := 0x80000093#32 }
      (shows 0 0x80000093#32 0xDB#32) = true := by decide
/-- SY6. -/
theorem test_mrs_defect : faults (started 0x10#32 0x100#32 0xE14F0000#32 []) (.defect .noSpsr) = true := by decide
/-- SY8, SY12. -/
theorem test_msr : nextHas (started 0xD3#32 0x100#32 0xE129F000#32 [(0, 0x60000010#32)])
      (fun t => decide (t.cpsr = 0x600000D0#32)) = true ∧
    nextHas (started 0x10#32 0x100#32 0xE121F000#32 [(0, 0x1F#32)]) (fun t => decide (t.cpsr = 0x10#32)) = true := by
  decide
/-- SY15. -/
theorem test_msr_defect : faults (started 0xD3#32 0x100#32 0xE129F000#32 [(0, 0xF0000000#32)])
    (.defect .msrMode) = true := by decide
/-- S4. -/
theorem test_swi : nextHas (started 0x60000010#32 0x8004#32 0xEF000032#32 [])
    (fun t => decide (t.r14.svc = 0x8008#32 ∧ t.pc = 8#32 ∧ t.cpsr = 0x60000093#32 ∧ t.spsrSvc = 0x60000010#32 ∧
      t.out.service.map ServiceCall.number = some 0x32#24)) = true := by decide
/-- S5. -/
theorem test_movs_pc :
    nextHas { started 0x60000093#32 8#32 0xE1B0F00E#32 [(14, 0x8008#32)] with spsrSvc := 0x60000010#32 }
      (fun t => decide (t.pc = 0x8008#32 ∧ t.cpsr = 0x60000010#32)) = true := by decide
/-- SY24. -/
theorem test_wfi : nextHas { started 0x10#32 0x100#32 0xE320F003#32 [] with irqPending := true }
    (fun t => decide (t.run = .halted ∧ t.pc = 0x104#32)) = true := by decide
/-- CP1 after MCR; CP3. -/
theorem test_mrc : nextHas { started 0x10#32 0x100#32 0xEE1D0F70#32 [] with cp15 := [(1666, 0#32), (1667, 0x1FF80000#32)] }
      (shows 0 0x1FF80000#32 0x10#32) = true ∧
    nextHas (started 0xD3#32 0x100#32 0xEE1D0F70#32 []) (shows 0 0#32 0xD3#32) = true := by decide
/-- CP4. -/
theorem test_mcr : nextHas (started 0x10#32 0x100#32 0xEE0D1F50#32 [(1, 0xDEADBEEF#32)])
    (fun t => decide (t.cp15 = [(1666, 0xDEADBEEF#32), (1667, 0#32)])) = true := by decide
/-- CP8. -/
theorem test_mrc_unimplemented : faults (started 0x10#32 0x100#32 0xEE3D0F70#32 [])
    (.unsupportedCoprocessorRegister { opc1 := 1, crn := 13, crm := 0, opc2 := 3 }) = true := by decide
/-- EX2: an undecodable word whose condition fails still traps, and banks its own address. -/
theorem test_undefined : nextHas (started 0x40000010#32 0x9008#32 0x10E10002#32 [])
    (fun t => decide (t.r14.und = 0x9008#32 ∧ t.pc = 4#32 ∧ t.cpsr = 0x4000009B#32 ∧ t.spsrUnd = 0x40000010#32)) =
      true := by decide
/-- EX15: the wake and the instruction share one step. -/
theorem test_wake :
    nextHas { started 0x10#32 0x104#32 0xE3A00001#32 [] with run := .halted, irqPending := true }
      (fun t => shows 0 1#32 0x10#32 t && decide (t.run = .running ∧ t.pc = 0x108#32)) = true := by decide
/-- EX13. -/
theorem test_fetch_misaligned : faults (started 0x10#32 0x102#32 0xE3A00001#32 [])
    (.memoryFault .fetch 4 0x102#32) = true := by decide
/-- A word placed at the next fetch runs as the first instruction after reset; with nothing placed the
fetch stops (log 11). -/
theorem test_first_instruction : nextHas (State.reset.withFetchWord 32 0xE3A00001) (shows 0 1#32 0xD3#32) = true ∧
    faults State.reset (.unwrittenMemory .fetch 4 0#32) = true := by decide

/-- A bus unlike the reference bus, for the tests: it answers every read, misaligned ones too, with MOV
r0, #1 and counts its calls; it refuses every write. -/
def countingBus : Bus (List Nat) where
  read8 _ c := .value (0x01#8, 0 :: c)
  read16 _ c := .value (0x0001#16, 0 :: c)
  read32 _ c := .value (0xE3A00001#32, 0 :: c)
  write8 _ _ _ := none
  write16 _ _ _ := none
  write32 _ _ _ := none

/-- That bus as the argument of the step function. -/
def counting : Bus BusContents := liftBus (fun c => c.platform) (fun c p => { c with platform := p }) countingBus

/-- The bus is an argument (R7, R60): with another bus a misaligned fetch runs, with one call (R67); an
LDR makes one call more than its fetch and loads what the bus answers; an STR is refused by the bus. -/
theorem test_stepOn_other_bus :
    (match stepOn counting { State.reset with pc := 0x102#32 } with
      | .next t => decide (t.readReg .supervisor 0 = 1#32 ∧ t.pc = 0x106#32 ∧ t.platform = [0])
      | _ => false) = true ∧
    (match execOn counting (.ldrPost .al true 1 0 4) State.reset with
      | .next t => decide (t.readReg .supervisor 0 = 0xE3A00001#32 ∧ t.platform = [0])
      | _ => false) = true ∧
    (match execOn counting (.strOffset .al true 1 0 0) (State.reset.writeReg .supervisor 1 2#32) with
      | .fault f => decide (f = .memoryFault .store 4 2#32)
      | _ => false) = true := by decide

/-! ## Witnesses: for each statement with hypotheses, a state and operands that meet them together -/

theorem witness_DecodeOfEncodedInstruction : (Instr.addRegReg .ne true 1 2 3 .ror 4).wf = true := by decide
theorem witness_EncodeOfDecodedWord :
    decodeWord 0xE0303291#32 = .ok (.mla .al true 0 3 2 1) ∧ decodeWord 0xE000F291#32 = .ok (.mul .al false 0 15 2 1) := by
  decide
theorem witness_ConditionFieldIndependentOfClass :
    decodeWord 0xE0D10002#32 = .ok (.sbcRegImm .al true 1 0 2 .lsl 0) ∧ bits 0xE0D10002#32 0 28 = bits 0xF0D10002#32 0 28 := by
  decide
/-- One word for each clause, and each alternative of its hypothesis. -/
theorem witness_OpcodeMapSpaces :
    bits 0xE7910002#32 25 3 = 0b011 ∧ bits 0xE8BD8000#32 25 3 = 0b100 ∧ bits 0xED910A00#32 25 3 = 0b110 ∧
    (bits 0xE5D10000#32 25 3 = 0b010 ∧ bits 0xE5D10000#32 22 1 = 1) ∧
    (bits 0xE4B10004#32 25 3 = 0b010 ∧ bits 0xE4B10004#32 24 1 = 0 ∧ bits 0xE4B10004#32 21 1 = 1) ∧
    (bits 0xE0E10002#32 26 2 = 0 ∧ bits 0xE0E10002#32 21 4 = 0b0111) ∧
    (bits 0xEE000F00#32 24 4 = 0b1110 ∧ bits 0xEE000F00#32 4 1 = 0) ∧
    (bits 0xEE100E10#32 24 4 = 0b1110 ∧ bits 0xEE100E10#32 8 4 ≠ 0b1111) ∧
    bits 0xEAFFFFFE#32 25 3 = 0b101 ∧ bits 0xEF000032#32 24 4 = 0b1111 := by decide
/-- One word for each exclusion a to f. -/
theorem witness_RegisterExclusionsRefused :
    (bits 0xE1A0F211#32 25 3 = 0 ∧ bits 0xE1A0F211#32 7 1 = 0 ∧ bits 0xE1A0F211#32 4 1 = 1 ∧
      ¬(bits 0xE1A0F211#32 23 2 = 0b10 ∧ bits 0xE1A0F211#32 20 1 = 0) ∧
      bits 0xE1A0F211#32 12 4 = 15 ∧ bits 0xE1A0F211#32 23 2 ≠ 0b10) ∧
    (bits 0xE5B11004#32 25 3 = 0b010 ∧ bits 0xE5B11004#32 21 1 = 1 ∧ bits 0xE5B11004#32 16 4 = bits 0xE5B11004#32 12 4) ∧
    (bits 0xE4DF0004#32 25 3 = 0b010 ∧ bits 0xE4DF0004#32 24 1 = 0 ∧ bits 0xE4DF0004#32 16 4 = 15) ∧
    (bits 0xE020F291#32 22 6 = 0 ∧ bits 0xE020F291#32 4 4 = 0b1001 ∧ bits 0xE020F291#32 21 1 = 1 ∧
      bits 0xE020F291#32 12 4 = 15) ∧
    (bits 0xE10FF000#32 23 5 = 0b00010 ∧ bits 0xE10FF000#32 16 6 = 0b001111 ∧ bits 0xE10FF000#32 0 12 = 0 ∧
      bits 0xE10FF000#32 12 4 = 15) ∧
    (bits 0xE129F00F#32 20 8 = 0b00010010 ∧ bits 0xE129F00F#32 4 12 = 0xF00 ∧ bits 0xE129F00F#32 0 4 = 15) ∧
    (bits 0xEE1DFF70#32 24 4 = 0b1110 ∧ bits 0xEE1DFF70#32 12 4 = 15) := by decide

/-- A User-mode state for the witnesses: r1 is an aligned address, Z and C are 1. -/
def user : State := holding (started 0x60000010#32 0x100#32 0xE0D10002#32 [(0, 0xAA#32), (1, 0x1000#32)]) 0x1000#32 0x11223344#32
/-- The same in Supervisor and Undefined mode. -/
def svc : State := { user with cpsr := 0x600000D3#32, r13 := { user.r13 with svc := 0x2000#32 } }
def und : State := { user with cpsr := 0x600000DB#32 }

theorem modes : user.mode = some .user ∧ svc.mode = some .supervisor ∧ und.mode = some .undefined := by decide

theorem mapped_at_pc : wordMapped user user.pc := by unfold wordMapped; decide
theorem held_at_pc : holdsWord user user.pc 0xE0D10002#32 := by unfold holdsWord; decide

/-- The reference bus; and a bus that is not the reference bus. -/
theorem witness_StepRunsDecodedInstruction :
    (wordRead user user.pc 0xE0D10002#32 user.contents ∧
      decodeWord 0xE0D10002#32 = .ok (.sbcRegImm .al true 1 0 2 .lsl 0) ∧ user.run = .running) ∧
    (counting.read32 user.pc user.contents = .value (0xE3A00001#32, { mem := user.mem, platform := [0] }) ∧
      decodeWord 0xE3A00001#32 = .ok (.movImm .al false 0 0 0 1#8)) :=
  ⟨⟨⟨mapped_at_pc, held_at_pc, rfl⟩, by decide, by decide⟩, by decide, by decide⟩
theorem witness_StepRunsDecodedInstruction_waking :
    let s := { user with run := .halted, irqPending := true }
    wordRead s s.pc 0xE0D10002#32 s.contents ∧ s.run = .halted ∧ s.irqPending = true :=
  ⟨⟨mapped_at_pc, held_at_pc, rfl⟩, rfl, rfl⟩
/-- The clauses about a platform's own bus: whatever it answers to a read or a write, the hypothesis of one
of the statements about accesses holds. -/
theorem platform_bus_clauses_cover (s : State) (n : Nat) (a v : Word) (h : s.cfg.bus = .platform n) :
    ((∃ w c, wordRead s a w c) ∨ readRefused s a ∨ readUnwritten s a) ∧
    (writeAccepted s a v ∨ ¬ writeAccepted s a v) := by
  refine ⟨?_, Classical.em _⟩
  simp only [wordRead, readRefused, readUnwritten, h]
  cases (Config.platformBus n).read32 a s.platform with
  | memoryFault => exact .inr (.inl rfl)
  | unwritten => exact .inr (.inr rfl)
  | value x => exact .inl ⟨x.1, _, x.2, rfl, rfl⟩
theorem witness_UndecodableWordTakesUndefinedTrap :
    let s := holding user 0x100#32 0x10E10002#32
    wordRead s s.pc 0x10E10002#32 s.contents ∧ decodeWord 0x10E10002#32 = .error .unsupportedEncoding ∧
      s.run = .running :=
  ⟨⟨by unfold wordMapped; decide, by unfold holdsWord; decide, rfl⟩, by decide, by decide⟩
theorem witness_FailedConditionSkips : conditionPassed (Instr.cond (.swi .ne 1)) user.cpsr = false := by decide
theorem witness_HaltedIdleChangesNothing :
    ({ user with run := .halted } : State).run = .halted ∧ ({ user with run := .halted } : State).irqPending = false := by
  decide
theorem witness_WakeRunsInTheSameStep :
    ({ user with run := .halted, irqPending := true } : State).run = .halted ∧
    ({ user with run := .halted, irqPending := true } : State).irqPending = true := by decide
theorem witness_RunningIgnoresInterruptLevel : user.run = .running ∧ nextHas user (fun _ => true) = true ∧
    faults { user with pc := 0x102#32 } (.memoryFault .fetch 4 0x102#32) = true := by decide
theorem witness_FetchFaultStopsStep :
    readRefused { user with pc := 0xFFFFFFFE#32 } 0xFFFFFFFE#32 ∧ user.run = .running := by
  refine ⟨show ¬ wordMapped _ _ from ?_, by decide⟩
  unfold wordMapped; decide

/-- Every opcode that writes Rd, the widest and the narrowest operand. -/
theorem witness_DataProcessingWritesResult : DpOp.isTest .adc = false ∧ (14 : Reg) ≠ 15 ∧
    conditionPassed .cs user.cpsr = true ∧ user.mode = some .user := by decide
theorem witness_DataProcessingSetsFlags : (DpOp.isTest .cmp = true ∨ (false : Bool) = true) ∧
    ¬(DpOp.cmp = .mov ∧ (15 : Reg) = 15 ∧ Mode.privileged .supervisor = true) ∧
    conditionPassed .eq svc.cpsr = true ∧ svc.mode = some .supervisor := by decide
theorem witness_TestOpcodesWriteOnlyFlags : DpOp.isTest .teq = true ∧ conditionPassed .eq und.cpsr = true ∧
    und.mode = some .undefined := by decide
theorem witness_DataProcessingIntoPc : DpOp.isTest .add = false ∧
    ¬(DpOp.add = .mov ∧ (true : Bool) = true ∧ Mode.privileged .supervisor = true) ∧
    conditionPassed .eq svc.cpsr = true ∧ svc.mode = some .supervisor := by decide
theorem witness_MovsPcReturnsFromTrap : conditionPassed .al svc.cpsr = true ∧ svc.mode = some .supervisor ∧
    implementedMode (modeField svc.spsrSvc) ∧ conditionPassed .al und.cpsr = true ∧ und.mode = some .undefined ∧
    implementedMode (modeField und.spsrUnd) := by unfold implementedMode; decide
theorem witness_MovsPcReturnsFromTrap_defect :
    ({ svc with spsrSvc := 0x1F#32 } : State).mode = some .supervisor ∧ ¬ implementedMode (modeField 0x1F#32) ∧
    ({ und with spsrUnd := 0x12#32 } : State).mode = some .undefined ∧ ¬ implementedMode (modeField 0x12#32) := by
  unfold implementedMode; decide
/-- Amounts 0, 1 and 31 of R153, on the register that holds 0xAA in r0 and on r15. -/
theorem witness_ShiftByImmediateTable :
    shifterOperand .user (.regImm 0 .lsr 0) user = { value := 0#32, carry := false } ∧
    shifterOperand .user (.regImm 0 .lsr 1) user = { value := 0x55#32, carry := false } ∧
    shifterOperand .user (.regImm 0 .lsl 31) user = { value := 0#32, carry := true } ∧
    shifterOperand .user (.regImm 15 .lsl 0) user = { value := 0x108#32, carry := true } := by decide
/-- Amounts 0, 32 and 255 of R154, from a register's low byte. -/
theorem witness_ShiftByRegisterTable :
    shifterOperand .user (.regReg 1 .lsl 1) user = { value := 0x1000#32, carry := true } ∧
    shifterOperand .user (.regReg 0 .lsl 2) (user.writeReg .user 2 0x20#32) = { value := 0#32, carry := false } ∧
    shifterOperand .user (.regReg 0 .asr 2) (user.writeReg .user 2 0xFF#32) = { value := 0#32, carry := false } := by decide

theorem witness_BranchReachesTarget : conditionPassed .eq user.cpsr = true := by decide
theorem witness_BranchWithLinkSavesReturn : conditionPassed .al und.cpsr = true ∧ und.mode = some .undefined := by decide
theorem witness_BranchExchangeRecordsT : conditionPassed .al user.cpsr = true ∧ user.mode = some .user := by decide

theorem mapped_1000 : wordMapped user 0x1000#32 := by unfold wordMapped; decide
theorem held_1000 : holdsWord user 0x1000#32 0x11223344#32 := by unfold holdsWord; decide
theorem read_1000 : wordRead user 0x1000#32 0x11223344#32 user.contents := ⟨mapped_1000, held_1000, rfl⟩
theorem mapped_pc8 : wordMapped user 0x108#32 := by unfold wordMapped; decide

/-- Offset with the base as destination, pre-indexed, and post-indexed with the largest offset. -/
theorem witness_LoadWordCompletes :
    ((Instr.memXfer true .offset .al true 1 1 0).wf = true ∧ (Instr.memXfer true .preIndexed .al true 1 0 0).wf = true ∧
      (Instr.memXfer true .postIndexed .al false 1 0 4095).wf = true) ∧
    (1 : Reg) ≠ 15 ∧ (0 : Reg) ≠ 15 ∧ conditionPassed .al user.cpsr = true ∧ user.mode = some .user ∧
    (accessAddress .offset (user.readReg .user 1) true 0 = 0x1000#32 ∧
      accessAddress .preIndexed (user.readReg .user 1) true 0 = 0x1000#32 ∧
      accessAddress .postIndexed (user.readReg .user 1) false 4095 = 0x1000#32) ∧
    wordRead user 0x1000#32 0x11223344#32 user.contents :=
  ⟨by decide, by decide, by decide, by decide, by decide, by decide, read_1000⟩
theorem witness_LoadIntoPc :
    (Instr.memXfer true .offset .al true 1 15 0).wf = true ∧ (Instr.memXfer true .postIndexed .al true 1 15 4).wf = true ∧
    conditionPassed .al user.cpsr = true ∧ user.mode = some .user ∧
    accessAddress .postIndexed (user.readReg .user 1) true 4 = 0x1000#32 ∧
    wordRead user 0x1000#32 0x11223344#32 user.contents :=
  ⟨by decide, by decide, by decide, by decide, by decide, read_1000⟩
/-- Offset with r15 as base and as source, and pre-indexed. -/
theorem witness_StoreWordCompletes :
    (Instr.memXfer false .offset .al true 15 15 0).wf = true ∧ (Instr.memXfer false .preIndexed .al true 1 0 0).wf = true ∧
    conditionPassed .al user.cpsr = true ∧ user.mode = some .user ∧
    accessAddress .offset (user.readReg .user 15) true 0 = 0x108#32 ∧ writeAccepted user 0x108#32 0x108#32 ∧
    accessAddress .preIndexed (user.readReg .user 1) true 0 = 0x1000#32 ∧ writeAccepted user 0x1000#32 0xAA#32 :=
  ⟨by decide, by decide, by decide, by decide, by decide, mapped_pc8, by decide, mapped_1000⟩
/-- `user` with a hole in the memory map from 0x1002. -/
def holed : State := { user with cfg := { user.cfg with mapped := [{ base := 0x1000, size := 2 }] } }
theorem unmapped_1000 : ¬ wordMapped holed 0x1000#32 := by unfold wordMapped; decide
theorem misaligned_1002 : ¬ wordMapped user (accessAddress .offset (user.readReg .user 1) true 2) := by
  unfold wordMapped; decide
/-- A misaligned address, and an unmapped one, for a load and for a store. -/
theorem witness_BusFaultStopsTransfer : conditionPassed .al user.cpsr = true ∧ user.mode = some .user ∧
    readRefused user (accessAddress .offset (user.readReg .user 1) true 2) ∧ readRefused holed 0x1000#32 ∧
    ¬ writeAccepted user (accessAddress .offset (user.readReg .user 1) true 2) (user.readReg .user 0) ∧
    ¬ writeAccepted holed 0x1000#32 (holed.readReg .user 0) :=
  ⟨by decide, by decide, misaligned_1002, unmapped_1000, misaligned_1002, unmapped_1000⟩
theorem mapped_1004 : wordMapped user (accessAddress .offset (user.readReg .user 1) true 4) := by
  unfold wordMapped; decide
theorem witness_LoadOfUnwrittenMemoryStops : conditionPassed .al user.cpsr = true ∧ user.mode = some .user ∧
    readUnwritten user (accessAddress .offset (user.readReg .user 1) true 4) :=
  ⟨by decide, by decide, mapped_1004, 3, by decide, by decide⟩
/-- The written address, and another one that reads before and after. -/
theorem witness_WordReadAfterWordWrite : user.cfg.bus = .reference ∧ (0x100#32 : Word) ≠ 0x1000#32 ∧
    (∃ t, memWrite (busOf user.cfg) 0x1000#32 7#32 user = .ok t) ∧
    memRead (busOf user.cfg) .load 0x100#32 user = .ok (0xE0D10002#32, user) :=
  ⟨rfl, by decide,
    ⟨_, (memWrite_reference_eq_ok _ rfl _ _ _ _).2 ⟨(busAccepts_iff _ _ _).2 mapped_1000, rfl⟩⟩,
    (memRead_reference_eq_ok _ rfl _ _ _ _ _).2 ⟨(busAccepts_iff _ _ _).2 mapped_at_pc, by decide, rfl⟩⟩
theorem witness_StoredWordIsFetched : user.cfg.bus = .reference ∧ conditionPassed .al user.cpsr = true ∧ user.mode = some .user ∧
    nextHas (holding user 0x100#32 0xE5810000#32) (fun t => decide (memWord t.mem 0x1000 = some 0xAA#32)) = true := by decide

theorem witness_MultiplyResultAndFlags : (0 : Reg) ≠ 15 ∧ conditionPassed .al user.cpsr = true ∧
    user.mode = some .user := by decide
/-- The status word in User mode, and the SPSR in each privileged mode. -/
theorem witness_MrsReadsStatusWords : (14 : Reg) ≠ 15 ∧
    (conditionPassed .al user.cpsr = true ∧ user.mode = some .user ∧ ((false : Bool) = true → Mode.user ≠ .user)) ∧
    (conditionPassed .al svc.cpsr = true ∧ svc.mode = some .supervisor ∧ Mode.supervisor ≠ .user) ∧
    (conditionPassed .al und.cpsr = true ∧ und.mode = some .undefined ∧ Mode.undefined ≠ .user) := by decide
/-- A mode write in a privileged mode, and an ignored one in User mode. -/
theorem witness_MsrWritesFlagsAndMode :
    (conditionPassed .al svc.cpsr = true ∧ svc.mode = some .supervisor ∧
      implementedMode (modeField ((svc.writeReg .supervisor 0 0xF0000010#32).readReg .supervisor 0))) ∧
    (conditionPassed .al user.cpsr = true ∧ user.mode = some .user ∧
      (BitVec.getLsbD 9#4 0 = true → Mode.user ≠ .user → implementedMode (modeField (user.readReg .user 0)))) := by
  unfold implementedMode; decide
theorem witness_SwiEntersSupervisorTrap : conditionPassed .al user.cpsr = true := by decide
theorem witness_WfiHaltsAtNextInstruction : conditionPassed .cs user.cpsr = true := by decide
theorem witness_CoprocessorReadCompletes : (0 : Reg) ≠ 15 ∧ conditionPassed .al user.cpsr = true ∧
    user.mode = some .user ∧ cellGet (cp15Number { opc1 := 0, crn := 13, crm := 0, opc2 := 3 }) user.cfg.cp15 = some 0#32 ∧
    cellGet (cp15Number { opc1 := 0, crn := 13, crm := 0, opc2 := 3 }) user.cp15 = some 0#32 := by decide
theorem witness_CoprocessorWriteCompletes : conditionPassed .al und.cpsr = true ∧ und.mode = some .undefined ∧
    cellGet (cp15Number { opc1 := 0, crn := 13, crm := 0, opc2 := 2 }) und.cfg.cp15 = some 0#32 := by decide
theorem witness_UnimplementedCoprocessorRegisterFaults : conditionPassed .al user.cpsr = true ∧
    user.mode = some .user ∧ cellGet (cp15Number { opc1 := 0, crn := 13, crm := 0, opc2 := 1 }) user.cfg.cp15 = none := by
  decide
theorem witness_CoprocessorRoundTrip : (2 : Reg) ≠ 15 ∧ conditionPassed .al user.cpsr = true ∧
    user.mode = some .user ∧ nextHas (holding user 0x100#32 0xEE0D1F50#32) (fun _ => true) = true := by decide

theorem witness_inv : Inv user ∧ Inv svc :=
  ⟨⟨by decide, by decide, by decide, by decide, by decide, by decide, by decide⟩,
    ⟨by decide, by decide, by decide, by decide, by decide, by decide, by decide⟩⟩
theorem witness_StepKeepsInvariant : Inv user ∧ nextHas user (fun _ => true) = true :=
  ⟨witness_inv.1, by decide⟩
theorem witness_ResetSatisfiesInvariant : configOk user.cfg ∧ drawOk ResetDraw.named ∧ Memory.wf user.mem :=
  ⟨witness_inv.1.config, by decide, witness_inv.1.memory⟩
/-- A step that stays in User mode, and one that leaves it. -/
theorem witness_UserModeLeftOnlyByTrap : user.mode = some .user ∧
    nextHas user (fun t => decide (t.mode = some .user)) = true ∧
    nextHas (holding user 0x100#32 0xEF000001#32) (fun t => decide (t.mode = some .supervisor)) = true := by decide
theorem witness_BanksOfOtherModesKept : user.mode = some .user ∧ Mode.supervisor ≠ .user ∧
    nextHas (holding user 0x100#32 0xEB000002#32) (fun _ => true) = true := by decide
theorem witness_SpsrWrittenOnlyByTrapEntry :
    nextHas (holding user 0x100#32 0xE0E10002#32) (fun t => t.out.record.isSome) = true := by decide
/-- The instruction, executed in a state, answers a next state. -/
def completes (i : Instr) (s : State) : Bool :=
  match exec i s with
  | .next _ => true
  | _ => false

theorem bx_is_no_dataProc (c : Cond) (rm : Reg) : ∀ op c' sf rn rd o, Instr.bx c rm ≠ Instr.dataProc op c' sf rn rd o := by
  intro op c' sf rn rd o
  cases op <;> cases o <;> exact nofun

theorem bx_is_no_memXfer (c : Cond) (rm : Reg) :
    ∀ l ix c' up rn rd off, Instr.bx c rm ≠ Instr.memXfer l ix c' up rn rd off := by
  intro l ix c' up rn rd off
  cases l <;> cases ix <;> exact nofun

theorem wfi_is_no_dataProc (c : Cond) : ∀ op c' sf rn rd o, Instr.wfi c ≠ Instr.dataProc op c' sf rn rd o := by
  intro op c' sf rn rd o
  cases op <;> cases o <;> exact nofun

theorem wfi_is_no_memXfer (c : Cond) :
    ∀ l ix c' up rn rd off, Instr.wfi c ≠ Instr.memXfer l ix c' up rn rd off := by
  intro l ix c' up rn rd off
  cases l <;> cases ix <;> exact nofun

theorem witness_BankMutatedOnlyByMcr : completes (.mrc .al { opc1 := 0, crn := 13, crm := 0, opc2 := 3 } 0) user = true ∧
    ∀ c id rd, Instr.mrc .al { opc1 := 0, crn := 13, crm := 0, opc2 := 3 } 0 ≠ .mcr c id rd :=
  ⟨by decide, nofun⟩
theorem witness_MemoryChangedOnlyByStore : completes (.bx .al 1) user = true ∧
    ∀ ix c up rn rd off, Instr.bx .al 1 ≠ Instr.memXfer false ix c up rn rd off :=
  ⟨by decide, bx_is_no_memXfer .al 1 false⟩
theorem witness_FlagsKeptByOtherInstructions : completes (.bx .al 1) user = true ∧
    (∀ op c rn rd o, Instr.bx .al 1 ≠ Instr.dataProc op c true rn rd o) ∧
    (∀ c rd rn rs rm, Instr.bx .al 1 ≠ .mul c true rd rn rs rm) ∧
    (∀ c rd rn rs rm, Instr.bx .al 1 ≠ .mla c true rd rn rs rm) ∧ (∀ c k rm, Instr.bx .al 1 ≠ .msr c k rm) :=
  ⟨by decide, fun op c rn rd o => bx_is_no_dataProc .al 1 op c true rn rd o, nofun, nofun, nofun⟩
theorem witness_MaskBitWriters : completes (.bx .al 1) user = true ∧
    (∀ c rn o, Instr.bx .al 1 ≠ Instr.dataProc .mov c true rn 15 o) ∧ completes (.swi .al 1) user = true ∧
    (∀ c rn o, Instr.swi .al 1 ≠ Instr.dataProc .mov c true rn 15 o) :=
  ⟨by decide, fun c rn o => bx_is_no_dataProc .al 1 .mov c true rn 15 o, by decide,
    fun c rn o => by cases o <;> exact nofun⟩
theorem witness_PcAdvancesUnlessRedirected : (Instr.wfi .al).wf = true ∧ completes (.wfi .al) user = true ∧
    (∀ c n, Instr.wfi .al ≠ .b c n) ∧ (∀ c n, Instr.wfi .al ≠ .bl c n) ∧ (∀ c rm, Instr.wfi .al ≠ .bx c rm) ∧
    (∀ c n, Instr.wfi .al ≠ .swi c n) ∧
    (∀ op c sf rn o, op.isTest = false → Instr.wfi .al ≠ Instr.dataProc op c sf rn 15 o) ∧
    (∀ ix c up rn off, Instr.wfi .al ≠ Instr.memXfer true ix c up rn 15 off) :=
  ⟨by decide, by decide, nofun, nofun, nofun, nofun, fun op c sf rn o _ => wfi_is_no_dataProc .al op c sf rn 15 o,
    fun ix c up rn off => wfi_is_no_memXfer .al true ix c up rn 15 off⟩
/-- A step that halts, and one that wakes. -/
theorem witness_RunStateTransitions :
    (user.run = .running ∧ nextHas (holding user 0x100#32 0xE320F003#32) (fun t => decide (t.run = .halted)) = true) ∧
    nextHas { user with run := .halted, irqPending := true } (fun t => decide (t.run = .running)) = true := by decide
/-- Each of the three defects, and a state with a mode. -/
theorem witness_DefectsAreExactlyThree : user.mode = some .user ∧ svc.mode = some .supervisor ∧
    faults (holding user 0x100#32 0xE14F0000#32) (.defect .noSpsr) = true ∧
    faults (holding svc 0x100#32 0xE121F000#32) (.defect .msrMode) = true ∧
    faults { holding svc 0x100#32 0xE1B0F00E#32 with spsrSvc := 0x1F#32 } (.defect .spsrMode) = true := by decide
/-- A trap record, a bus fault of each kind, an unsupported identifier. -/
theorem witness_EventsComeFromTheirInstructions :
    nextHas (holding user 0x100#32 0xEF000001#32) (fun t => t.out.record.isSome) = true ∧
    faults (holding user 0x100#32 0xE5910002#32) (.memoryFault .load 4 0x1002#32) = true ∧
    faults (holding user 0x100#32 0xE5810003#32) (.memoryFault .store 4 0x1003#32) = true ∧
    faults (holding user 0x100#32 0xEE3D0F70#32)
      (.unsupportedCoprocessorRegister { opc1 := 1, crn := 13, crm := 0, opc2 := 3 }) = true := by decide
/-- The boundary registers r12, r13 and r14, written in Supervisor mode and seen in User mode. -/
theorem witness_RegisterViews : (12 : Reg) ≠ 15 ∧ (14 : Reg) ≠ 15 ∧ Mode.user ≠ .supervisor ∧
    (svc.writeReg .supervisor 12 7#32).readReg .user 12 = 7#32 ∧
    (svc.writeReg .supervisor 13 7#32).readReg .user 13 = unspecifiedRegister ∧
    (svc.writeReg .supervisor 14 7#32).readReg .supervisor 14 = 7#32 := by decide
/-- Outside the window nothing is written; inside it r0 is. -/
theorem witness_HostWriteBackWindow : user.out.service = none ∧
    nextHas (holding user 0x100#32 0xEF000001#32)
      (fun t => decide ((hostWriteBack [(.low 0, 7#32)] t).readReg .supervisor 0 = 7#32)) = true := by decide

end Sys2Proof.Tests
end

/-! The condition field and the decoder (30_encoding.md R91): the class and the fields of a word are read
from its low 28 bits, and its condition goes unchanged into the instruction, whatever the class. -/

namespace Sys2Proof.Encoding
open Sys2Proof.Machine Sys2Proof.Spec

/-! Fields of words that agree in their low 28 bits -/

/-- The number of a field of a word, read off the word's own number. -/
theorem bits_eq_fieldAt (w : Word) (lo len : Nat) : bits w lo len = fieldAt w.toNat lo len := by
  simp [bits, fieldAt, Nat.shiftRight_eq_div_pow]

theorem fieldAt_low (n len : Nat) : fieldAt n 0 len = n % 2 ^ len := by simp [fieldAt]

/-- A field that ends at or below bit `k` is a field of the low `k` bits. -/
theorem fieldAt_mod (n lo len k : Nat) (hk : lo + len ≤ k) : fieldAt (n % 2 ^ k) lo len = fieldAt n lo len := by
  obtain ⟨d, rfl⟩ := Nat.exists_eq_add_of_le hk
  rw [fieldAt, fieldAt, Nat.add_assoc, Nat.pow_add, Nat.mod_mul_right_div_self, Nat.pow_add,
    Nat.mod_mul_right_mod]

section
variable {n n' : Nat} (low : n' % 2 ^ 28 = n % 2 ^ 28)
include low

theorem fieldAt_congr (lo len : Nat) (h : lo + len ≤ 28) : fieldAt n' lo len = fieldAt n lo len := by
  rw [← fieldAt_mod n' lo len 28 h, low, fieldAt_mod n lo len 28 h]

theorem bitAt_congr (k : Nat) (h : k + 1 ≤ 28) : bitAt n' k = bitAt n k := by
  rw [bitAt, bitAt, fieldAt_congr low k 1 h]

theorem regAt_congr (lo : Nat) (h : lo + 4 ≤ 28) : regAt n' lo = regAt n lo := by
  rw [regAt, regAt, fieldAt_congr low lo 4 h]

theorem ofNat_congr (len : Nat) (h : 0 + len ≤ 28) : BitVec.ofNat len n' = BitVec.ofNat len n := by
  have field := fieldAt_congr low 0 len h
  rw [fieldAt_low, fieldAt_low] at field
  exact BitVec.eq_of_toNat_eq (by simpa using field)

theorem operand2At_congr : operand2At n' = operand2At n := by
  simp (disch := decide) only [operand2At, bitAt_congr low, regAt_congr low, fieldAt_congr low,
    ofNat_congr low]

theorem indexAt_congr : indexAt n' = indexAt n := by
  simp (disch := decide) only [indexAt, bitAt_congr low]

theorem cp15IdAt_congr : cp15IdAt n' = cp15IdAt n := by
  simp (disch := decide) only [cp15IdAt, fieldAt_congr low]

end

/-! The condition of a word -/

theorem code_ofCode (k : Nat) (h : k < 16) : (Cond.ofCode k).code = k := by
  interval_cases k <;> rfl

/-- The decoder copies the field: the condition has the code in `n[31:28]` (R91). -/
theorem code_condAt (n : Nat) : (condAt n).code = fieldAt n 28 4 :=
  code_ofCode _ (Nat.mod_lt _ (by decide))

/-! The shapes of instruction, each as a function of its condition -/

theorem encodeNat_dataProc (op : DpOp) (c : Cond) (sf : Bool) (rn rd : Reg) (o : Operand2) :
    encodeNat (Instr.dataProc op c sf rn rd o) = encodeDataProc op c (sf || op.isTest) rn rd o := by
  cases op <;> cases o <;> cases sf <;> rfl

theorem encodeNat_memXfer (load : Bool) (ix : Index) (c : Cond) (up : Bool) (rn rd : Reg) (off : BitVec 12) :
    encodeNat (Instr.memXfer load ix c up rn rd off) = encodeMemXfer load ix c up rn rd off := by
  cases load <;> cases ix <;> rfl

theorem wf_dataProc_cond (op : DpOp) (c c' : Cond) (sf : Bool) (rn rd : Reg) (o : Operand2) :
    (Instr.dataProc op c sf rn rd o).wf = (Instr.dataProc op c' sf rn rd o).wf := by
  cases op <;> cases o <;> rfl

theorem wf_memXfer_cond (load : Bool) (ix : Index) (c c' : Cond) (up : Bool) (rn rd : Reg) (off : BitVec 12) :
    (Instr.memXfer load ix c up rn rd off).wf = (Instr.memXfer load ix c' up rn rd off).wf := by
  cases load <;> cases ix <;> rfl

/-- The instructions `f c` differ in their condition alone: it is `c`, no exclusion of R119 looks at it,
and in the word it fills the bits from 28 up. -/
structure CopiesCondition (f : Cond → Instr) : Prop where
  cond_eq : ∀ c, (f c).cond = c
  wf_eq : ∀ c c', (f c).wf = (f c').wf
  encodeNat_eq : ∀ c, encodeNat (f c) = c.code * 2 ^ 28 + encodeNat (f .eq)

namespace CopiesCondition

theorem dataProc (op : DpOp) (sf : Bool) (rn rd : Reg) (o : Operand2) :
    CopiesCondition (Instr.dataProc op · sf rn rd o) where
  cond_eq c := Instr.cond_dataProc op c sf rn rd o
  wf_eq c c' := wf_dataProc_cond op c c' sf rn rd o
  encodeNat_eq c := by simp only [encodeNat_dataProc, encodeDataProc, Cond.code]; omega

theorem memXfer (load : Bool) (ix : Index) (up : Bool) (rn rd : Reg) (off : BitVec 12) :
    CopiesCondition (Instr.memXfer load ix · up rn rd off) where
  cond_eq c := Instr.cond_memXfer load ix c up rn rd off
  wf_eq c c' := wf_memXfer_cond load ix c c' up rn rd off
  encodeNat_eq c := by simp only [encodeNat_memXfer, encodeMemXfer, Cond.code]; omega

theorem b (k : BitVec 24) : CopiesCondition (.b · k) :=
  ⟨fun _ => rfl, fun _ _ => rfl, fun c => by simp only [encodeNat, Cond.code]; omega⟩

theorem bl (k : BitVec 24) : CopiesCondition (.bl · k) :=
  ⟨fun _ => rfl, fun _ _ => rfl, fun c => by simp only [encodeNat, Cond.code]; omega⟩

theorem bx (rm : Reg) : CopiesCondition (.bx · rm) :=
  ⟨fun _ => rfl, fun _ _ => rfl, fun c => by simp only [encodeNat, Cond.code]; omega⟩

theorem mul (sf : Bool) (rd rn rs rm : Reg) : CopiesCondition (.mul · sf rd rn rs rm) :=
  ⟨fun _ => rfl, fun _ _ => rfl, fun c => by simp only [encodeNat, encodeMultiply, Cond.code]; omega⟩

theorem mla (sf : Bool) (rd rn rs rm : Reg) : CopiesCondition (.mla · sf rd rn rs rm) :=
  ⟨fun _ => rfl, fun _ _ => rfl, fun c => by simp only [encodeNat, encodeMultiply, Cond.code]; omega⟩

theorem mrs (spsr : Bool) (rd : Reg) : CopiesCondition (.mrs · spsr rd) :=
  ⟨fun _ => rfl, fun _ _ => rfl, fun c => by simp only [encodeNat, Cond.code]; omega⟩

theorem msr (mask : BitVec 4) (rm : Reg) : CopiesCondition (.msr · mask rm) :=
  ⟨fun _ => rfl, fun _ _ => rfl, fun c => by simp only [encodeNat, Cond.code]; omega⟩

theorem swi (k : BitVec 24) : CopiesCondition (.swi · k) :=
  ⟨fun _ => rfl, fun _ _ => rfl, fun c => by simp only [encodeNat, Cond.code]; omega⟩

theorem wfi : CopiesCondition .wfi :=
  ⟨fun _ => rfl, fun _ _ => rfl, fun c => by simp only [encodeNat, Cond.code]; omega⟩

theorem mrc (id : Cp15Id) (rd : Reg) : CopiesCondition (.mrc · id rd) :=
  ⟨fun _ => rfl, fun _ _ => rfl, fun c => by simp only [encodeNat, encodeCoproc, Cond.code]; omega⟩

theorem mcr (id : Cp15Id) (rd : Reg) : CopiesCondition (.mcr · id rd) :=
  ⟨fun _ => rfl, fun _ _ => rfl, fun c => by simp only [encodeNat, encodeCoproc, Cond.code]; omega⟩

/-- The choice between two classes by a bit below the condition. -/
theorem ite {f g : Cond → Instr} (p : Prop) [Decidable p] (hf : CopiesCondition f) (hg : CopiesCondition g) :
    CopiesCondition (fun c => if p then f c else g c) := by
  split
  · exact hf
  · exact hg

/-- The low 28 bits of the word do not depend on the condition. -/
theorem encode_low {f : Cond → Instr} (hf : CopiesCondition f) (c c' : Cond) :
    bits (encode (f c)) 0 28 = bits (encode (f c')) 0 28 := by
  simp only [bits_eq_fieldAt, fieldAt_low, encode, BitVec.toNat_ofNat, hf.encodeNat_eq c, hf.encodeNat_eq c']
  omega

end CopiesCondition

/-! The decoder -/

/-- Two answers of `matchPattern`, for words with the conditions `c` and `c'`: neither is an instruction,
or both are the same one up to its condition. -/
inductive SameClass (c c' : Cond) : Option Instr → Option Instr → Prop
  | refused : SameClass c c' none none
  | decoded (f : Cond → Instr) (hf : CopiesCondition f) : SameClass c c' (some (f c)) (some (f c'))

theorem SameClass.ite {c c' : Cond} {o₁ o₁' o₂ o₂' : Option Instr} {p p' : Prop} [Decidable p] [Decidable p']
    (hp : p ↔ p') (h₁ : SameClass c c' o₁ o₁') (h₂ : SameClass c c' o₂ o₂') :
    SameClass c c' (if p then o₁ else o₂) (if p' then o₁' else o₂') := by
  by_cases h : p
  · rwa [if_pos h, if_pos (hp.1 h)]
  · rwa [if_neg h, if_neg (mt hp.2 h)]

theorem CopiesCondition.sameClass {f : Cond → Instr} (hf : CopiesCondition f) {c c' : Cond} :
    SameClass c c' (some (f c)) (some (f c')) := .decoded f hf

/-- Along the tests of R95 in their order: the low 28 bits fix which one applies and every field but the
condition. -/
theorem matchPattern_sameClass {n n' : Nat} (low : n' % 2 ^ 28 = n % 2 ^ 28) :
    SameClass (condAt n) (condAt n') (matchPattern n) (matchPattern n') := by
  unfold matchPattern
  refine .ite ?_ ?branch <| .ite ?_ ?swi <| .ite ?_ ?coproc <| .ite ?_ ?memXfer <|
    .ite ?_ CopiesCondition.wfi.sameClass <| .ite ?_ ?bx <| .ite ?_ ?mrs <| .ite ?_ ?msr <|
    .ite ?_ ?multiply <| .ite ?_ ?dataProc .refused
  all_goals simp (disch := decide) only [fieldAt_congr low, bitAt_congr low, regAt_congr low,
    ofNat_congr low, operand2At_congr low, indexAt_congr low, cp15IdAt_congr low]
  case branch => exact (CopiesCondition.ite _ (.bl _) (.b _)).sameClass
  case swi => exact (CopiesCondition.swi _).sameClass
  case coproc => exact (CopiesCondition.ite _ (.mrc _ _) (.mcr _ _)).sameClass
  case memXfer => exact (CopiesCondition.memXfer _ _ _ _ _ _).sameClass
  case bx => exact (CopiesCondition.bx _).sameClass
  case mrs => exact (CopiesCondition.mrs _ _).sameClass
  case msr => exact (CopiesCondition.msr _ _).sameClass
  case multiply => exact (CopiesCondition.ite _ (.mla _ _ _ _ _) (.mul _ _ _ _ _)).sameClass
  case dataProc =>
    cases DpOp.ofCode (fieldAt n 21 4) with
    | none => exact .refused
    | some op => exact (CopiesCondition.dataProc op _ _ _ _).sameClass

/-- The word that decodes, as a class and its fields with the condition put in; every word with the same
low 28 bits is that class with its own condition. -/
theorem decodeWord_eq_ok_of_low (w w' : Word) (i : Instr) (hi : decodeWord w = .ok i)
    (low : bits w 0 28 = bits w' 0 28) :
    ∃ f, CopiesCondition f ∧ i = f (condAt w.toNat) ∧ decodeWord w' = .ok (f (condAt w'.toNat)) := by
  obtain ⟨hm, hwf⟩ := (decodeWord_eq_ok w i).1 hi
  rw [bits_eq_fieldAt, bits_eq_fieldAt, fieldAt_low, fieldAt_low] at low
  have same := matchPattern_sameClass low.symm
  rw [hm] at same
  generalize hm' : matchPattern w'.toNat = o' at same
  cases same with
  | decoded f hf =>
    have hwf' : (f (condAt w'.toNat)).wf = true := by rw [hf.wf_eq _ (condAt w.toNat), hwf]
    exact ⟨f, hf, rfl, (decodeWord_eq_ok w' _).2 ⟨hm', hwf'⟩⟩

/-- Settles O3: by `decodeWord_eq_ok_of_low` both words are one class with its fields, each with its own
condition, which R91's field gives. -/
theorem conditionFieldIndependentOfClass : Obligations.ConditionFieldIndependentOfClass := by
  intro w w' i hi low
  obtain ⟨f, hf, rfl, hw'⟩ := decodeWord_eq_ok_of_low w w' i hi low
  have code (v : Word) : (f (condAt v.toNat)).cond.code = bits v 28 4 := by
    rw [hf.cond_eq, code_condAt, bits_eq_fieldAt]
  exact ⟨code w, _, hw', code w', hf.encode_low _ _⟩

end Sys2Proof.Encoding

/-! The step and the condition test (40_step_and_condition.md): what a word read through the chosen bus
answers, the Undefined trap of a word that does not decode (R132, R275), the skip of an instruction whose
condition fails (R133), and the condition matrix (R136). -/

namespace Sys2Proof.StepAndCondition
open Sys2Proof.Machine Sys2Proof.Spec

/-! A word read through the bus that the parameters choose -/

/-- The bytes of a word, lowest address first (R63). -/
theorem extractLsb'_wordOfBytes (b0 b1 b2 b3 : Byte) :
    (wordOfBytes b0 b1 b2 b3).extractLsb' 0 8 = b0 ∧ (wordOfBytes b0 b1 b2 b3).extractLsb' 8 8 = b1 ∧
    (wordOfBytes b0 b1 b2 b3).extractLsb' 16 8 = b2 ∧ (wordOfBytes b0 b1 b2 b3).extractLsb' 24 8 = b3 := by
  unfold wordOfBytes
  refine ⟨?_, ?_, ?_, ?_⟩
  all_goals
    refine BitVec.eq_of_getLsbD_eq fun j hj => ?_
    simp only [BitVec.getLsbD_extractLsb', BitVec.getLsbD_append, hj, decide_true, Bool.true_and]
    grind

theorem memWord_eq_some_iff_holdsWord (s : State) (a v : Word) :
    memWord s.mem a.toNat = some v ↔ holdsWord s a v := by
  rw [memWord_eq_some]
  constructor
  · rintro ⟨b0, b1, b2, b3, h0, h1, h2, h3, rfl⟩ k hk
    obtain ⟨e0, e1, e2, e3⟩ := extractLsb'_wordOfBytes b0 b1 b2 b3
    rcases (by omega : k = 0 ∨ k = 1 ∨ k = 2 ∨ k = 3) with rfl | rfl | rfl | rfl
    · exact h0.trans (congrArg some e0.symm)
    · exact h1.trans (congrArg some e1.symm)
    · exact h2.trans (congrArg some e2.symm)
    · exact h3.trans (congrArg some e3.symm)
  · intro held
    exact ⟨_, _, _, _, held 0 (by decide), held 1 (by decide), held 2 (by decide), held 3 (by decide),
      (wordOfBytes_extract v).symm⟩

theorem withContents_inj (s : State) (c d : BusContents) : s.withContents c = s.withContents d ↔ c = d :=
  ⟨fun h => congrArg State.contents h, fun h => congrArg s.withContents h⟩

/-- The reads of the model are those the statements speak of, on the reference bus and on any other. -/
theorem memRead_eq_ok_iff_wordRead (k : AccessKind) (s : State) (a v : Word) (c : BusContents) :
    memRead (busOf s.cfg) k a s = .ok (v, s.withContents c) ↔ wordRead s a v c := by
  unfold wordRead
  split
  case h_1 reference =>
    have same : s.withContents c = s ↔ c = s.contents := withContents_inj s c s.contents
    rw [memRead_reference_eq_ok _ reference, busAccepts_iff, memWord_eq_some_iff_holdsWord, same]
    exact Iff.rfl
  case h_2 n platform =>
    rw [memRead_eq_ok, busOf_platform _ _ platform]
    cases answer : (Config.platformBus n).read32 a s.platform with
    | memoryFault => simp [liftBus, mapAnswer, answer]
    | unwritten => simp [liftBus, mapAnswer, answer]
    | value x =>
      obtain ⟨w, p⟩ := x
      simp [liftBus, mapAnswer, answer, withContents_inj, eq_comm, and_assoc]

/-! Words that do not decode -/

theorem step_of_running (s : State) (h : s.run = .running) : step s = fetchExecute (busOf s.cfg) exec s := by
  simp [step, stepWith, h]

/-- A fetched word that does not decode takes the trap, and nothing is executed (R130 step 3). -/
theorem fetchExecute_of_undecodable (bus : Bus BusContents) (execute : Instr → State → Result) (s t : State)
    (w : Word) (e : DecodeError) (hf : fetch bus s = .ok (w, t)) (hw : decodeWord w = .error e) :
    fetchExecute bus execute s = .next (raiseUndefined t) := by
  simp [fetchExecute, hf, hw]

/-- A read leaves the reference bus's memory as it was, and what stands behind a platform's bus too when
the reference bus is the chosen one (R69). -/
theorem wordRead_contents (s : State) (a v : Word) (c : BusContents) (h : wordRead s a v c) :
    c.mem = s.mem ∧ (s.cfg.bus = .reference → c.platform = s.platform) := by
  unfold wordRead at h
  split at h
  case h_1 =>
    obtain ⟨-, -, rfl⟩ := h
    exact ⟨rfl, fun _ => rfl⟩
  case h_2 n platform =>
    obtain ⟨p, -, rfl⟩ := h
    exact ⟨rfl, fun reference => nomatch platform.symm.trans reference⟩

/-- The status word after a trap: the mode is the target's, I is 1, and every other bit above the mode
field is kept (R275, R278). -/
theorem trapStatus_bits (p : Word) (m : Mode) :
    modeField (withBit (withModeField p m.bits) 7 true) = m.bits ∧
    ∀ j, 5 ≤ j → (withBit (withModeField p m.bits) 7 true).getLsbD j =
      if j = 7 then true else p.getLsbD j := by
  refine ⟨?_, fun j hj => ?_⟩
  · rw [modeField_withBit _ _ _ (by decide) (by decide), modeField_withModeField]
  · rw [getLsbD_withBit _ _ _ _ (by decide), getLsbD_withModeField, if_neg (Nat.not_lt.2 hj)]

/-- Settles O8: the step is the fetch and then `raiseUndefined`, whose entry sequence is that of R275. -/
theorem undecodableWordTakesUndefinedTrap : Obligations.UndecodableWordTakesUndefinedTrap := by
  intro s w c read undecodable running
  obtain ⟨memKept, platformKept⟩ := wordRead_contents s s.pc w c read
  obtain ⟨modeBits, otherBits⟩ := trapStatus_bits s.cpsr .undefined
  have fetched : fetch (busOf s.cfg) s = .ok (w, s.withContents c) :=
    (memRead_eq_ok_iff_wordRead .fetch s s.pc w c).2 read
  refine ⟨_, ?_, platformKept, modeBits, otherBits⟩
  rw [step_of_running s running, fetchExecute_of_undecodable _ _ _ _ _ _ fetched undecodable]
  obtain ⟨m, p⟩ := c
  cases memKept
  rfl

/-! Failed conditions -/

/-- Every instruction's meaning stands under its own condition (R130 steps 4 and 5, R134). -/
theorem exec_eq_whenPassed (i : Instr) (s : State) : ∃ body, exec i s = whenPassed i.cond s body := by
  rcases Instr.shapes i with ⟨op, c, sf, rn, rd, o, rfl⟩ | ⟨load, ix, c, up, rn, rd, off, rfl⟩ | ⟨c, n, rfl⟩ |
    ⟨c, n, rfl⟩ | ⟨c, rm, rfl⟩ | ⟨c, sf, rd, rn, rs, rm, rfl⟩ | ⟨c, sf, rd, rn, rs, rm, rfl⟩ |
    ⟨c, sp, rd, rfl⟩ | ⟨c, mask, rm, rfl⟩ | ⟨c, n, rfl⟩ | ⟨c, rfl⟩ | ⟨c, id, rd, rfl⟩ | ⟨c, id, rd, rfl⟩
  · rw [exec_dataProc, Instr.cond_dataProc]
    exact ⟨_, rfl⟩
  · rw [Instr.cond_memXfer]
    cases load
    · rw [exec_store]
      exact ⟨_, rfl⟩
    · rw [exec_load]
      exact ⟨_, rfl⟩
  all_goals exact ⟨_, rfl⟩

/-- Settles O9: the condition wrapper of every instruction answers `skipped`, in which `pc` advances and
the cycles of a skip are returned. -/
theorem failedConditionSkips : Obligations.FailedConditionSkips := by
  intro i s failed
  obtain ⟨body, under⟩ := exec_eq_whenPassed i s
  rw [under, whenPassed_of_fail _ _ _ failed]
  rfl

/-! The condition matrix -/

theorem testBit_bits (w : Word) (lo len k : Nat) (h : k < len) :
    (bits w lo len).testBit k = w.getLsbD (lo + k) := by
  simp [bits, BitVec.testBit_toNat, h]

/-- The condition test reads N, Z, C and V and nothing else of the status word (R136). -/
theorem conditionPassed_congr (c : Cond) (p q : Word) (h : bits p 28 4 = bits q 28 4) :
    conditionPassed c p = conditionPassed c q := by
  have flag (k : Nat) (hk : k < 4) : p.getLsbD (28 + k) = q.getLsbD (28 + k) := by
    rw [← testBit_bits p 28 4 k hk, h, testBit_bits q 28 4 k hk]
  have hN : flagN p = flagN q := flag 3 (by decide)
  have hZ : flagZ p = flagZ q := flag 2 (by decide)
  have hC : flagC p = flagC q := flag 1 (by decide)
  have hV : flagV p = flagV q := flag 0 (by decide)
  simp only [conditionPassed, hN, hZ, hC, hV]

/-- The flags NZCV of a status word as a number. -/
def flagsOf (p : Word) : Fin 16 := (p.extractLsb' 28 4).toFin

/-- The status word with the flags NZCV that a number spells, every other bit 0. -/
def flagsWord (k : Fin 16) : Word := BitVec.ofNat 32 (k * 2 ^ 28)

theorem bits_flagsWord (k : Fin 16) : bits (flagsWord k) 28 4 = k := by
  revert k
  decide

/-- The matrix of 95_test_vectors.md 2.1, one row of 16 flag combinations for each condition. -/
theorem conditionPassed_flagsWord (c : Cond) (k : Fin 16) :
    conditionPassed c (flagsWord k) = (conditionRow c).testBit k := by
  revert k
  cases c <;> decide

/-- Settles O10: the test on any status word is the test on its flags alone, which the matrix lists. -/
theorem conditionTruthTable : Obligations.ConditionTruthTable := by
  intro c p
  calc conditionPassed c p
      = conditionPassed c (flagsWord (flagsOf p)) :=
        conditionPassed_congr c _ _ (bits_flagsWord (flagsOf p)).symm
    _ = (conditionRow c).testBit (bits p 28 4) := conditionPassed_flagsWord c (flagsOf p)

end Sys2Proof.StepAndCondition

/-! The shifter operand and the adder of data processing (41_data_processing.md): the rotated immediate
(R152), a register shifted by an immediate (R153), and AddWithCarry (R158), in exact arithmetic. -/

namespace Sys2Proof.DataProcessing
open Sys2Proof.Machine

/-! Bits, sign and rotation of a word -/

/-- A bit of a word, by division of the word's number. -/
theorem getLsbD_eq_div_mod (m : Word) (i : Nat) : m.getLsbD i = decide (m.toNat / 2 ^ i % 2 = 1) := by
  rw [← BitVec.testBit_toNat, Nat.testBit_eq_decide_div_mod_eq]

theorem getLsbD_31_eq_le (m : Word) : m.getLsbD 31 = decide (2 ^ 31 ≤ m.toNat) :=
  m.msb_eq_getLsbD_last.symm.trans m.msb_eq_decide

theorem getLsbD_31_eq_neg (m : Word) : m.getLsbD 31 = decide (m.toInt < 0) :=
  m.msb_eq_getLsbD_last.symm.trans BitVec.msb_eq_toInt

/-- Bit `j` of a rotated word comes from `k` places higher, around the end of the word. -/
theorem getLsbD_rotateRight_mod (m : Word) (k j : Nat) (hj : j < 32) :
    (m.rotateRight k).getLsbD j = m.getLsbD ((j + k) % 32) := by
  rw [BitVec.getLsbD_rotateRight]
  by_cases inner : j < 32 - k % 32
  · have source : k % 32 + j = (j + k) % 32 := by omega
    simp [inner, source]
  · have source : j - (32 - k % 32) = (j + k) % 32 := by omega
    simp [inner, hj, source]

theorem toInt_signFill (m : Word) : (signFill m).toInt = if m.toInt < 0 then -1 else 0 := by
  unfold signFill
  rw [getLsbD_31_eq_neg]
  by_cases negative : m.toInt < 0 <;> simp [negative]

/-- A bit set or cleared above every bit of the word adds its weight. -/
theorem toNat_withBit_31 (p : Word) (b : Bool) (h : p.toNat < 2 ^ 31) :
    (withBit p 31 b).toNat = b.toNat * 2 ^ 31 + p.toNat := by
  refine Nat.eq_of_testBit_eq fun j => ?_
  rw [BitVec.testBit_toNat, getLsbD_withBit _ _ _ _ (by decide), Nat.mul_comm,
    Nat.testBit_two_pow_mul_add _ h]
  rcases Nat.lt_trichotomy j 31 with below | rfl | above
  · rw [if_neg below.ne, if_pos below, BitVec.testBit_toNat]
  · cases b <;> rfl
  · have beyond : 1 < 2 ^ (j - 31) := Nat.one_lt_two_pow (by omega)
    rw [if_neg above.ne', if_neg above.not_gt, BitVec.getLsbD_of_ge _ _ above,
      Nat.testBit_lt_two_pow (b.toNat_le.trans_lt beyond)]

/-! The rotated immediate -/

theorem getLsbD_shiftImm_value (c : Bool) (rot : Fin 16) (imm8 : Byte) (j : Nat) (hj : j < 32) :
    (shiftImm c rot imm8).value.getLsbD j = imm8.getLsbD ((j + 2 * rot.val) % 32) := by
  have widened (i : Nat) (hi : i < 32) : (imm8.setWidth 32).getLsbD i = imm8.getLsbD i := by
    simp [hi]
  unfold shiftImm
  split
  case isTrue zero => rw [widened j hj, zero, Nat.mul_zero, Nat.add_zero, Nat.mod_eq_of_lt hj]
  case isFalse => rw [getLsbD_rotateRight_mod _ _ _ hj, widened _ (Nat.mod_lt _ (by decide))]

theorem shiftImm_carry (c : Bool) (rot : Fin 16) (imm8 : Byte) :
    (shiftImm c rot imm8).carry = if rot.val = 0 then c else (shiftImm c rot imm8).value.getLsbD 31 := by
  unfold shiftImm
  split <;> rfl

/-- Settles O20: bit by bit, with no rotation and with one. -/
theorem rotatedImmediateOperand : Obligations.RotatedImmediateOperand := by
  intro m rot imm8 s
  exact ⟨getLsbD_shiftImm_value _ rot imm8, shiftImm_carry _ rot imm8⟩

/-! A register shifted by an immediate: for each type the row of amount 0 and the rows of 1 to 31 -/

section
variable (c : Bool) (m : Word) (n : Nat)

theorem shiftByImm_lsl_zero : shiftByImm c m .lsl 0 = { value := m, carry := c } := rfl

theorem shiftByImm_lsl (h : 0 < n) :
    (shiftByImm c m .lsl n).value.toNat = m.toNat * 2 ^ n % 2 ^ 32 ∧
    (shiftByImm c m .lsl n).carry = decide (m.toNat / 2 ^ (32 - n) % 2 = 1) := by
  rw [shiftByImm, if_neg h.ne']
  exact ⟨by rw [BitVec.toNat_shiftLeft, Nat.shiftLeft_eq], getLsbD_eq_div_mod _ _⟩

theorem shiftByImm_lsr_zero :
    shiftByImm c m .lsr 0 = { value := 0#32, carry := decide (2 ^ 31 ≤ m.toNat) } :=
  congrArg (Shifted.mk 0#32) (getLsbD_31_eq_le m)

theorem shiftByImm_lsr (h : 0 < n) :
    (shiftByImm c m .lsr n).value.toNat = m.toNat / 2 ^ n ∧
    (shiftByImm c m .lsr n).carry = decide (m.toNat / 2 ^ (n - 1) % 2 = 1) := by
  rw [shiftByImm, if_neg h.ne']
  exact ⟨by rw [BitVec.toNat_ushiftRight, Nat.shiftRight_eq_div_pow], getLsbD_eq_div_mod _ _⟩

theorem shiftByImm_asr_zero :
    (shiftByImm c m .asr 0).value.toInt = (if m.toInt < 0 then -1 else 0) ∧
    (shiftByImm c m .asr 0).carry = decide (m.toInt < 0) :=
  ⟨toInt_signFill m, getLsbD_31_eq_neg m⟩

theorem shiftByImm_asr (h : 0 < n) :
    (shiftByImm c m .asr n).value.toInt = m.toInt / 2 ^ n ∧
    (shiftByImm c m .asr n).carry = decide (m.toNat / 2 ^ (n - 1) % 2 = 1) := by
  rw [shiftByImm, if_neg h.ne']
  refine ⟨?_, getLsbD_eq_div_mod _ _⟩
  rw [BitVec.toInt_sshiftRight, Int.shiftRight_eq_div_pow]
  norm_cast

/-- Amount 0 is RRX: the carry enters at the top and bit 0 leaves. -/
theorem shiftByImm_ror_zero :
    (shiftByImm c m .ror 0).value.toNat = c.toNat * 2 ^ 31 + m.toNat / 2 ∧
    (shiftByImm c m .ror 0).carry = decide (m.toNat % 2 = 1) := by
  have half : (m >>> 1).toNat = m.toNat / 2 := by rw [BitVec.toNat_ushiftRight, Nat.shiftRight_one]
  have small : (m >>> 1).toNat < 2 ^ 31 := by omega
  refine ⟨(toNat_withBit_31 (m >>> 1) c small).trans (by rw [half]), ?_⟩
  exact (getLsbD_eq_div_mod m 0).trans (by rw [Nat.pow_zero, Nat.div_one])

theorem shiftByImm_ror (h : 0 < n) :
    (∀ j, j < 32 → (shiftByImm c m .ror n).value.getLsbD j = m.getLsbD ((j + n) % 32)) ∧
    (shiftByImm c m .ror n).carry = m.getLsbD (n - 1) := by
  rw [shiftByImm, if_neg h.ne']
  exact ⟨getLsbD_rotateRight_mod m n, rfl⟩

end

/-- Settles O21: a lemma for each row; `r15` reads as `pc + 8` (R24). -/
theorem shiftByImmediateTable : Obligations.ShiftByImmediateTable := by
  intro mode rm n s m sh
  have zero (ty : ShiftType) (h : n.val = 0) : sh ty = shiftByImm (flagC s.cpsr) m ty 0 :=
    congrArg (shiftByImm (flagC s.cpsr) m ty) h
  refine ⟨fun pc => ?_, fun h => ?_, shiftByImm_lsl (flagC s.cpsr) m n, fun h => ?_,
    shiftByImm_lsr (flagC s.cpsr) m n, fun h => ?_, shiftByImm_asr (flagC s.cpsr) m n, fun h => ?_,
    shiftByImm_ror (flagC s.cpsr) m n⟩
  · exact (congrArg (s.readReg mode) pc).trans (readReg_fifteen s mode)
  · rw [zero .lsl h, shiftByImm_lsl_zero]
  · rw [zero .lsr h, shiftByImm_lsr_zero]
  · rw [zero .asr h]
    exact shiftByImm_asr_zero _ m
  · rw [zero .ror h]
    exact shiftByImm_ror_zero _ m

/-! AddWithCarry -/

section
variable (a b : Word) (c : Bool)

/-- The exact sum of the operands as signed integers. -/
def signedSum : Int := a.toInt + b.toInt + (c.toNat : Int)

theorem addWithCarry_result_toNat :
    (addWithCarry a b c).result.toNat = (a.toNat + b.toNat + c.toNat) % 2 ^ 32 :=
  BitVec.toNat_ofNat _ _

theorem addWithCarry_carry_iff :
    (addWithCarry a b c).carry = true ↔ 2 ^ 32 ≤ a.toNat + b.toNat + c.toNat :=
  decide_eq_true_iff

theorem addWithCarry_overflow_iff :
    (addWithCarry a b c).overflow = true ↔ signedSum a b c ≠ (addWithCarry a b c).result.toInt :=
  decide_eq_true_iff

/-- The result as a signed integer is the exact signed sum, wrapped into the range of a word. -/
theorem toInt_addWithCarry_result :
    (addWithCarry a b c).result.toInt = (signedSum a b c).bmod (2 ^ 32) := by
  calc (addWithCarry a b c).result.toInt
      = ((a.toNat + b.toNat + c.toNat : Nat) : Int).bmod (2 ^ 32) := BitVec.toInt_ofNat' _
    _ = (signedSum a b c).bmod (2 ^ 32) := by
      rw [signedSum, a.toInt_eq_toNat_bmod, b.toInt_eq_toNat_bmod, Int.add_assoc, Int.bmod_add_bmod,
        Int.add_left_comm, Int.bmod_add_bmod, Int.add_left_comm, ← Int.add_assoc,
        Int.natCast_add, Int.natCast_add]

/-- The exact signed sum is out of the range of a word when its operands have one sign and the wrapped
sum has the other. -/
theorem addWithCarry_overflow_iff_signs :
    (addWithCarry a b c).overflow = true ↔ a.msb = b.msb ∧ (addWithCarry a b c).result.msb ≠ a.msb := by
  have carryIn := c.toNat_le
  have lower_a := a.le_toInt
  have lower_b := b.le_toInt
  have upper_a := a.toInt_lt
  have upper_b := b.toInt_lt
  rw [addWithCarry_overflow_iff]
  simp only [BitVec.msb_eq_toInt, toInt_addWithCarry_result, ne_eq, decide_eq_decide, signedSum, Int.bmod_def]
  omega

/-- `a + ~b + 1` as an unbounded sum. -/
theorem toNat_add_not_add_one : a.toNat + (~~~b).toNat + true.toNat + b.toNat = a.toNat + 2 ^ 32 := by
  rw [BitVec.toNat_not, Bool.toNat_true]
  omega

theorem addWithCarry_not_result : (addWithCarry a (~~~b) true).result = a - b := by
  have sum := toNat_add_not_add_one a b
  refine BitVec.eq_of_toNat_eq ?_
  rw [addWithCarry_result_toNat, BitVec.toNat_sub]
  omega

theorem addWithCarry_not_carry_iff : (addWithCarry a (~~~b) true).carry = true ↔ b.toNat ≤ a.toNat := by
  have sum := toNat_add_not_add_one a b
  rw [addWithCarry_carry_iff]
  omega

end

/-- Settles O23: the sum is `addWithCarry`'s own, its signs decide the overflow, and for a subtraction
`a + ~b + 1` is `a - b + 2^32`. -/
theorem addWithCarryLaws : Obligations.AddWithCarryLaws := by
  intro a b c
  exact ⟨addWithCarry_result_toNat a b c, addWithCarry_carry_iff a b c, addWithCarry_overflow_iff a b c,
    addWithCarry_overflow_iff_signs a b c, addWithCarry_not_result a b, addWithCarry_not_carry_iff a b⟩

end Sys2Proof.DataProcessing

/-! Stores (43_load_store.md section 2): what a word write that the chosen bus takes leaves behind it, and
the writeback and the frame of STR (R211, R214, R215). -/

namespace Sys2Proof.LoadStore
open Sys2Proof.Machine Sys2Proof.Spec

/-! Base writeback -/

theorem writeBack_offset (s : State) (m : Mode) (rn : Reg) (v : Word) : s.writeBack m .offset rn v = s := rfl

theorem writeBack_of_ne_offset (s : State) (m : Mode) (ix : Index) (rn : Reg) (v : Word) (h : ix ≠ .offset) :
    s.writeBack m ix rn v = s.writeReg m rn v := by
  cases ix
  case offset => exact absurd rfl h
  case preIndexed => rfl
  case postIndexed => rfl

/-- Exclusion c of R119: a base that is written back is not r15. -/
theorem base_ne_fifteen (load : Bool) (ix : Index) (c : Cond) (up : Bool) (rn rd : Reg) (off : BitVec 12)
    (wf : (Instr.memXfer load ix c up rn rd off).wf = true) (h : ix ≠ .offset) : rn ≠ 15 := by
  have writeback : wfWriteback rn rd = true := by
    cases ix
    case offset => exact absurd rfl h
    all_goals cases load <;> exact wf
  simp only [wfWriteback, Bool.and_eq_true, bne_iff_ne] at writeback
  exact writeback.2

theorem writeBack_pc (s : State) (m : Mode) (ix : Index) (rn : Reg) (v : Word) (h : ix ≠ .offset → rn ≠ 15) :
    (s.writeBack m ix rn v).pc = s.pc := by
  by_cases hix : ix = .offset
  · rw [hix, writeBack_offset]
  · rw [writeBack_of_ne_offset s m ix rn v hix, writeReg_pc s m rn v (h hix)]

theorem registersKept_writeBack (s : State) (m : Mode) (ix : Index) (rn : Reg) (v : Word) :
    RegistersKept m (if ix = .offset then [] else [rn]) s (s.writeBack m ix rn v) := by
  by_cases hix : ix = .offset
  · rw [hix, writeBack_offset]
    exact ⟨fun _ _ _ => rfl, fun _ _ => ⟨rfl, rfl⟩⟩
  · rw [if_neg hix, writeBack_of_ne_offset s m ix rn v hix]
    exact ⟨fun i hi other => readReg_writeReg_of_ne s m m rn i v hi (List.ne_of_not_mem_cons other),
      fun m' hm' => writeReg_banks_of_ne s m m' rn v hm'⟩

/-- The registers of a view depend on `r`, `r13` and `r14` alone. -/
theorem registersKept_congr {m : Mode} {ds : List Reg} {s t t' : State} (h : RegistersKept m ds s t)
    (hr : t'.r = t.r) (h13 : t'.r13 = t.r13) (h14 : t'.r14 = t.r14) : RegistersKept m ds s t' := by
  obtain ⟨view, banks⟩ := h
  refine ⟨fun i hi other => ?_, fun m' hm' => ?_⟩
  · rw [readReg_congr t t' m i hr h13 h14 hi, view i hi other]
  · rw [h13, h14]
    exact banks m' hm'

/-! A word write through the bus that the parameters choose -/

theorem holdsWord_memSetWord (s : State) (a v : Word) :
    holdsWord { s with mem := memSetWord s.mem a.toNat v } a v := by
  intro k hk
  rw [memByte, cellGet_memSetWord]
  rcases (by omega : k = 0 ∨ k = 1 ∨ k = 2 ∨ k = 3) with rfl | rfl | rfl | rfl <;> simp

theorem memByte_memSetWord_of_outside (s : State) (a v : Word) (x : Nat) (h : x < a.toNat ∨ a.toNat + 4 ≤ x) :
    memByte { s with mem := memSetWord s.mem a.toNat v } x = memByte s x := by
  rw [memByte, cellGet_memSetWord, if_neg (by omega), if_neg (by omega), if_neg (by omega), if_neg (by omega),
    memByte]

/-- The writes of the model are those the statements speak of, on the reference bus and on any other: a write
that the bus takes leaves the contents that `wordWritten` describes, and changes nothing but them. -/
theorem memWrite_of_writeAccepted (s : State) (a v : Word) (h : writeAccepted s a v) :
    ∃ c, memWrite (busOf s.cfg) a v s = .ok (s.withContents c) ∧ wordWritten s (s.withContents c) a v := by
  cases bus : s.cfg.bus with
  | reference =>
    have mapped : wordMapped s a := by simpa only [writeAccepted, bus] using h
    refine ⟨{ s.contents with mem := memSetWord s.mem a.toNat v }, ?_, ?_⟩
    · exact (memWrite_reference_eq_ok _ bus _ _ _ _).2 ⟨(busAccepts_iff _ _ _).2 mapped, rfl⟩
    · simp only [wordWritten, bus]
      exact ⟨holdsWord_memSetWord s a v, memByte_memSetWord_of_outside s a v, rfl⟩
  | platform n =>
    simp only [writeAccepted, bus] at h
    obtain ⟨p, answer⟩ := Option.isSome_iff_exists.1 h
    refine ⟨{ s.contents with platform := p }, (memWrite_eq_ok _ _ _ _ _).2 ⟨_, ?_, rfl⟩, ?_⟩
    · simp [busOf_platform _ _ bus, liftBus, answer]
    · simp only [wordWritten, bus]
      exact ⟨answer, rfl⟩

/-- Whether a word was written depends on what stands behind the bus alone. -/
theorem wordWritten_congr {s t t' : State} {a v : Word} (h : wordWritten s t a v) (hm : t'.mem = t.mem)
    (hp : t'.platform = t.platform) : wordWritten s t' a v := by
  simp only [wordWritten, holdsWord, memByte] at h ⊢
  rw [hm, hp]
  exact h

/-! STR -/

/-- A passed STR whose write the bus takes: the write, then the writeback, then the next instruction. -/
theorem exec_store_of_written (ix : Index) (c : Cond) (up : Bool) (rn rd : Reg) (off : BitVec 12) (s u : State)
    (m : Mode) (passed : conditionPassed c s.cpsr = true) (mode : s.mode = some m)
    (written : memWrite (busOf s.cfg) (accessAddress ix (s.readReg m rn) up off) (s.readReg m rd) s = .ok u) :
    exec (Instr.memXfer false ix c up rn rd off) s =
      .next (u.writeBack m ix rn (updatedAddress (s.readReg m rn) up off)).advance.completed := by
  rw [exec_store, storeWord, whenPassed_of_pass _ _ _ passed, inMode_of_mode _ _ _ mode]
  simp only [written]

/-- Settles O30: the value stored is `readReg` of Rd, which the model reads before the writeback and from r15 as
`pc + 8`; the bus takes it, and of the state after it the writeback changes the base register alone. -/
theorem storeWordCompletes : Obligations.StoreWordCompletes := by
  rintro ix c up rn rd off s m _ _ wf passed mode rfl rfl accepted
  have stored : (if rd = 15 then s.pc + 8#32 else s.readReg m rd) = s.readReg m rd := by
    split
    case isTrue fifteen => rw [fifteen, readReg_fifteen]
    case isFalse => rfl
  rw [stored] at accepted ⊢
  obtain ⟨contents, write, written⟩ := memWrite_of_writeAccepted s _ _ accepted
  have base : ix ≠ .offset → rn ≠ 15 := base_ne_fifteen false ix c up rn rd off wf
  refine ⟨_, exec_store_of_written ix c up rn rd off s _ m passed mode write, ?written, ?base, ?pc, ?cpsr,
    ?registers, ?system, ?output⟩
  case written => exact wordWritten_congr written (by simp) (by simp)
  case base =>
    intro hix
    rw [readReg_completed, readReg_advance _ _ _ (base hix), writeBack_of_ne_offset _ _ _ _ _ hix,
      readReg_writeReg_same _ _ _ _ (base hix)]
  case pc => simp [writeBack_pc _ _ _ _ _ base]
  case cpsr => simp
  case registers =>
    exact registersKept_congr (registersKept_writeBack (s.withContents contents) m ix rn _) rfl rfl rfl
  case system => simp [SystemKept]
  case output => simp [okOutput]

end Sys2Proof.LoadStore

/-! The idle step (60_exceptions.md R292): a Halted core whose input is low answers only what the step
returns, and its next step finds the same Halted core with the same input. -/

namespace Sys2Proof.Exceptions
open Sys2Proof.Machine

/-- A run whose first step answers a state goes on from that state. -/
theorem run_succ_of_next (n : Nat) (s t : State) (h : step s = .next t) :
    Sys2Proof.core.run (n + 1) s = Sys2Proof.core.run n t := by
  have answer : Sys2Proof.core.step s = .next t := h
  simp only [Host.Core.run, answer]

theorem step_of_ended (s : State) (h : ended s) : step s = .next (idle s) := by
  obtain ⟨halted, low⟩ := h
  simp only [step, stepWith, halted, low]

theorem ended_idle (s : State) : ended (idle s) ↔ ended s := Iff.rfl

/-- The cost of an idle step is a parameter, which the step keeps: a second one returns the same (R292). -/
theorem idle_idle (s : State) : idle (idle s) = idle s := rfl

/-- Idle steps in a row answer what the first of them answered. -/
theorem run_succ_of_ended (n : Nat) (s : State) (h : ended s) :
    Sys2Proof.core.run (n + 1) s = .next (idle s) := by
  induction n generalizing s with
  | zero => exact run_succ_of_next 0 s _ (step_of_ended s h)
  | succ n ih =>
    calc Sys2Proof.core.run (n + 1 + 1) s
        = Sys2Proof.core.run (n + 1) (idle s) := run_succ_of_next (n + 1) s _ (step_of_ended s h)
      _ = .next (idle (idle s)) := ih (idle s) ((ended_idle s).2 h)
      _ = .next (idle s) := by rw [idle_idle]

/-- Settles O11: the first step answers `idle s`, which differs from `s` in the returned output alone, and
by induction on the number of further steps each of them answers `idle s` again. -/
theorem haltedIdleChangesNothing : Obligations.HaltedIdleChangesNothing :=
  fun n s halted low => run_succ_of_ended n s ⟨halted, low⟩

end Sys2Proof.Exceptions

/-! The round trips between words and instructions, and the words that do not decode (30_encoding.md sections 2
to 6). Everything goes through `Class`: the tests of R95 as conditions on the fields of a word, with the
instruction that each of them reads. -/

namespace Sys2Proof.RoundTrip
open Sys2Proof.Machine Sys2Proof.Spec Sys2Proof.Encoding

/-- The class of a word (R95, R110): the one test that holds of it, and the instruction that the test reads. -/
inductive Class (n : Nat) : Instr → Prop
  | bl (space : fieldAt n 25 3 = 0b101) (link : bitAt n 24 = true) : Class n (.bl (condAt n) (BitVec.ofNat 24 n))
  | b (space : fieldAt n 25 3 = 0b101) (link : bitAt n 24 = false) : Class n (.b (condAt n) (BitVec.ofNat 24 n))
  | swi (space : fieldAt n 24 4 = 0b1111) : Class n (.swi (condAt n) (BitVec.ofNat 24 n))
  | mrc (space : fieldAt n 24 4 = 0b1110) (transfer : fieldAt n 4 1 = 1) (cp15 : fieldAt n 8 4 = 0b1111)
      (load : bitAt n 20 = true) : Class n (.mrc (condAt n) (cp15IdAt n) (regAt n 12))
  | mcr (space : fieldAt n 24 4 = 0b1110) (transfer : fieldAt n 4 1 = 1) (cp15 : fieldAt n 8 4 = 0b1111)
      (load : bitAt n 20 = false) : Class n (.mcr (condAt n) (cp15IdAt n) (regAt n 12))
  | memXfer (space : fieldAt n 25 3 = 0b010) (word : fieldAt n 22 1 = 0)
      (form : ¬(fieldAt n 24 1 = 0 ∧ fieldAt n 21 1 = 1)) :
      Class n (Instr.memXfer (bitAt n 20) (indexAt n) (condAt n) (bitAt n 23) (regAt n 16) (regAt n 12)
        (BitVec.ofNat 12 n))
  | wfi (pattern : fieldAt n 0 28 = 0x320F003) : Class n (.wfi (condAt n))
  | bx (pattern : fieldAt n 4 24 = 0x12FFF1) : Class n (.bx (condAt n) (regAt n 0))
  | mrs (space : fieldAt n 23 5 = 0b00010) (form : fieldAt n 16 6 = 0b001111) (zero : fieldAt n 0 12 = 0) :
      Class n (.mrs (condAt n) (bitAt n 22) (regAt n 12))
  | msr (space : fieldAt n 20 8 = 0b00010010) (form : fieldAt n 4 12 = 0xF00) :
      Class n (.msr (condAt n) (BitVec.ofNat 4 (fieldAt n 16 4)) (regAt n 0))
  | mla (space : fieldAt n 22 6 = 0) (form : fieldAt n 4 4 = 0b1001) (accumulate : bitAt n 21 = true) :
      Class n (.mla (condAt n) (bitAt n 20) (regAt n 16) (regAt n 12) (regAt n 8) (regAt n 0))
  | mul (space : fieldAt n 22 6 = 0) (form : fieldAt n 4 4 = 0b1001) (accumulate : bitAt n 21 = false) :
      Class n (.mul (condAt n) (bitAt n 20) (regAt n 16) (regAt n 12) (regAt n 8) (regAt n 0))
  | dataProc (space : fieldAt n 26 2 = 0)
      (notExtra : ¬(fieldAt n 25 1 = 0 ∧ fieldAt n 7 1 = 1 ∧ fieldAt n 4 1 = 1))
      (notMisc : ¬(fieldAt n 23 2 = 0b10 ∧ fieldAt n 20 1 = 0)) (op : DpOp)
      (opcode : DpOp.ofCode (fieldAt n 21 4) = some op) :
      Class n (Instr.dataProc op (condAt n) (bitAt n 20) (regAt n 16) (regAt n 12) (operand2At n))

theorem bitAt_eq_true (n k : Nat) : bitAt n k = true ↔ fieldAt n k 1 = 1 := beq_iff_eq

theorem bitAt_eq_false (n k : Nat) : bitAt n k = false ↔ fieldAt n k 1 = 0 := by
  rw [← Bool.not_eq_true, bitAt_eq_true, fieldAt]
  omega

theorem class_of_matchPattern (n : Nat) (i : Instr) (h : matchPattern n = some i) : Class n i := by
  rcases ite_eq_iff.1 h with ⟨space, h⟩ | ⟨-, h⟩
  · obtain rfl := Option.some.inj h
    split
    case isTrue link => exact .bl space link
    case isFalse link => exact .b space (Bool.eq_false_of_not_eq_true link)
  rcases ite_eq_iff.1 h with ⟨space, h⟩ | ⟨-, h⟩
  · obtain rfl := Option.some.inj h
    exact .swi space
  rcases ite_eq_iff.1 h with ⟨⟨space, transfer, cp15⟩, h⟩ | ⟨-, h⟩
  · obtain rfl := Option.some.inj h
    split
    case isTrue load => exact .mrc space transfer cp15 load
    case isFalse load => exact .mcr space transfer cp15 (Bool.eq_false_of_not_eq_true load)
  rcases ite_eq_iff.1 h with ⟨⟨space, word, form⟩, h⟩ | ⟨-, h⟩
  · obtain rfl := Option.some.inj h
    exact .memXfer space word form
  rcases ite_eq_iff.1 h with ⟨pattern, h⟩ | ⟨-, h⟩
  · obtain rfl := Option.some.inj h
    exact .wfi pattern
  rcases ite_eq_iff.1 h with ⟨pattern, h⟩ | ⟨-, h⟩
  · obtain rfl := Option.some.inj h
    exact .bx pattern
  rcases ite_eq_iff.1 h with ⟨⟨space, form, zero⟩, h⟩ | ⟨-, h⟩
  · obtain rfl := Option.some.inj h
    exact .mrs space form zero
  rcases ite_eq_iff.1 h with ⟨⟨space, form⟩, h⟩ | ⟨-, h⟩
  · obtain rfl := Option.some.inj h
    exact .msr space form
  rcases ite_eq_iff.1 h with ⟨⟨space, form⟩, h⟩ | ⟨-, h⟩
  · obtain rfl := Option.some.inj h
    split
    case isTrue accumulate => exact .mla space form accumulate
    case isFalse accumulate => exact .mul space form (Bool.eq_false_of_not_eq_true accumulate)
  rcases ite_eq_iff.1 h with ⟨⟨space, notExtra, notMisc⟩, h⟩ | ⟨-, h⟩
  · obtain ⟨op, opcode, rfl⟩ := Option.map_eq_some_iff.1 h
    exact .dataProc space notExtra notMisc op opcode
  · cases h

/-- The tests exclude each other, so their order does not matter. -/
theorem matchPattern_of_class (n : Nat) (i : Instr) (h : Class n i) : matchPattern n = some i := by
  unfold matchPattern
  cases h
  case bl space link => rw [if_pos space, if_pos link]
  case b space link => rw [if_pos space, if_neg (Bool.eq_false_iff.1 link)]
  all_goals rw [if_neg (by unfold fieldAt at *; omega)]
  case swi space => rw [if_pos space]
  all_goals rw [if_neg (by unfold fieldAt at *; omega)]
  case mrc space transfer cp15 load => rw [if_pos ⟨space, transfer, cp15⟩, if_pos load]
  case mcr space transfer cp15 load =>
    rw [if_pos ⟨space, transfer, cp15⟩, if_neg (Bool.eq_false_iff.1 load)]
  all_goals rw [if_neg (by unfold fieldAt at *; omega)]
  case memXfer space word form => rw [if_pos ⟨space, word, form⟩]
  all_goals rw [if_neg (by unfold fieldAt at *; omega)]
  case wfi pattern => rw [if_pos pattern]
  all_goals rw [if_neg (by unfold fieldAt at *; omega)]
  case bx pattern => rw [if_pos pattern]
  all_goals rw [if_neg (by unfold fieldAt at *; omega)]
  case mrs space form zero => rw [if_pos ⟨space, form, zero⟩]
  all_goals rw [if_neg (by unfold fieldAt at *; omega)]
  case msr space form => rw [if_pos ⟨space, form⟩]
  all_goals rw [if_neg (by unfold fieldAt at *; omega)]
  case mla space form accumulate => rw [if_pos ⟨space, form⟩, if_pos accumulate]
  case mul space form accumulate => rw [if_pos ⟨space, form⟩, if_neg (Bool.eq_false_iff.1 accumulate)]
  case dataProc space notExtra notMisc op opcode =>
    rw [if_neg (by unfold fieldAt at *; omega), if_pos ⟨space, notExtra, notMisc⟩, opcode, Option.map_some]

theorem matchPattern_eq_some_iff (n : Nat) (i : Instr) : matchPattern n = some i ↔ Class n i :=
  ⟨class_of_matchPattern n i, matchPattern_of_class n i⟩

theorem decodeWord_eq_ok_iff (w : Word) (i : Instr) : decodeWord w = .ok i ↔ Class w.toNat i ∧ i.wf = true := by
  rw [decodeWord_eq_ok, matchPattern_eq_some_iff]

/-! Fields and codes -/

theorem regAt_val (n lo : Nat) : (regAt n lo).val = fieldAt n lo 4 :=
  Nat.mod_eq_of_lt (Nat.mod_lt _ (by decide))

theorem bitAt_toNat (n k : Nat) : (bitAt n k).toNat = fieldAt n k 1 := by
  cases bit : bitAt n k
  case false => exact ((bitAt_eq_false n k).1 bit).symm
  case true => exact ((bitAt_eq_true n k).1 bit).symm

theorem toNat_ofNat_eq_fieldAt (n len : Nat) : (BitVec.ofNat len n).toNat = fieldAt n 0 len := by
  rw [BitVec.toNat_ofNat, fieldAt_low]

theorem shiftCode_ofCode (k : Nat) (h : k < 4) : (ShiftType.ofCode k).code = k := by
  interval_cases k <;> rfl

theorem dpCode_of_ofCode (k : Nat) (op : DpOp) (h : DpOp.ofCode k = some op) : op.code = k := by
  unfold DpOp.ofCode at h
  split at h <;> cases h <;> rfl

theorem code_iff_isTest (op : DpOp) : op.code / 4 = 2 ↔ op.isTest = true := by
  cases op <;> decide

theorem fieldAt_lt (n lo len : Nat) : fieldAt n lo len < 2 ^ len := Nat.mod_lt _ (Nat.two_pow_pos len)

/-- What a data-processing word says in bits 11 to 0 and bit 25 (R96 to R98). -/
def operandNat (o : Operand2) : Nat :=
  match o with
  | .imm rot imm8 => 2 ^ 25 + rot.val * 2 ^ 8 + imm8.toNat
  | .regImm rm type amount => amount.val * 2 ^ 7 + type.code * 2 ^ 5 + rm.val
  | .regReg rm type rs => rs.val * 2 ^ 8 + type.code * 2 ^ 5 + 2 ^ 4 + rm.val

theorem encodeDataProc_eq (op : DpOp) (c : Cond) (sf : Bool) (rn rd : Reg) (o : Operand2) :
    encodeDataProc op c sf rn rd o =
      c.code * 2 ^ 28 + op.code * 2 ^ 21 + sf.toNat * 2 ^ 20 + rn.val * 2 ^ 16 + rd.val * 2 ^ 12 + operandNat o := by
  cases o <;> rfl

theorem operandNat_operand2At (n : Nat)
    (notExtra : ¬(fieldAt n 25 1 = 0 ∧ fieldAt n 7 1 = 1 ∧ fieldAt n 4 1 = 1)) :
    operandNat (operand2At n) = fieldAt n 25 1 * 2 ^ 25 + fieldAt n 0 12 := by
  unfold operand2At
  have code := shiftCode_ofCode (fieldAt n 5 2) (fieldAt_lt n 5 2)
  split
  case isTrue immediate =>
    rw [bitAt_eq_true] at immediate
    simp only [operandNat, regAt_val, toNat_ofNat_eq_fieldAt]
    unfold fieldAt at *; omega
  case isFalse register =>
    rw [bitAt_eq_true] at register
    split
    case isTrue byRegister =>
      rw [bitAt_eq_true] at byRegister
      simp only [operandNat, regAt_val, code]
      unfold fieldAt at *; omega
    case isFalse byImmediate =>
      rw [bitAt_eq_true] at byImmediate
      simp only [operandNat, regAt_val, code, Fin.val_ofNat]
      unfold fieldAt at *; omega

/-- The bits P and W of a load or store word (R103). -/
def indexNat : Index → Nat
  | .offset => 2 ^ 24
  | .preIndexed => 2 ^ 24 + 2 ^ 21
  | .postIndexed => 0

theorem encodeMemXfer_eq (load : Bool) (ix : Index) (c : Cond) (up : Bool) (rn rd : Reg) (off : BitVec 12) :
    encodeMemXfer load ix c up rn rd off =
      c.code * 2 ^ 28 + 0b010 * 2 ^ 25 + up.toNat * 2 ^ 23 + load.toNat * 2 ^ 20 + rn.val * 2 ^ 16 +
        rd.val * 2 ^ 12 + off.toNat + indexNat ix := by
  cases ix <;> rfl

theorem indexNat_indexAt (n : Nat) (form : ¬(fieldAt n 24 1 = 0 ∧ fieldAt n 21 1 = 1)) :
    indexNat (indexAt n) = fieldAt n 24 1 * 2 ^ 24 + fieldAt n 21 1 * 2 ^ 21 := by
  simp only [indexAt, bitAt_eq_true]
  split
  case isTrue indexed =>
    rw [indexed]
    split
    case isTrue writeback => rw [writeback]; rfl
    case isFalse keep => rw [indexNat]; unfold fieldAt at *; omega
  case isFalse post => rw [indexNat]; unfold fieldAt at *; omega

/-- Encoding what a word below `2 ^ 32` is read as gives the word back, class by class. -/
theorem encodeNat_of_class (n : Nat) (i : Instr) (lt : n < 2 ^ 32) (h : Class n i) : encodeNat i = n := by
  cases h
  case bl space link =>
    rw [bitAt_eq_true] at link
    simp only [encodeNat, code_condAt, toNat_ofNat_eq_fieldAt]
    unfold fieldAt at *; omega
  case b space link =>
    rw [bitAt_eq_false] at link
    simp only [encodeNat, code_condAt, toNat_ofNat_eq_fieldAt]
    unfold fieldAt at *; omega
  case swi space =>
    simp only [encodeNat, code_condAt, toNat_ofNat_eq_fieldAt]
    unfold fieldAt at *; omega
  case mrc space transfer cp15 load =>
    rw [bitAt_eq_true] at load
    simp only [encodeNat, encodeCoproc, code_condAt, regAt_val, cp15IdAt, Fin.val_ofNat]
    unfold fieldAt at *; omega
  case mcr space transfer cp15 load =>
    rw [bitAt_eq_false] at load
    simp only [encodeNat, encodeCoproc, code_condAt, regAt_val, cp15IdAt, Fin.val_ofNat]
    unfold fieldAt at *; omega
  case wfi pattern =>
    simp only [encodeNat, code_condAt]
    unfold fieldAt at *; omega
  case bx pattern =>
    simp only [encodeNat, code_condAt, regAt_val]
    unfold fieldAt at *; omega
  case mrs space form zero =>
    simp only [encodeNat, code_condAt, regAt_val, bitAt_toNat]
    unfold fieldAt at *; omega
  case msr space form =>
    simp only [encodeNat, code_condAt, regAt_val, BitVec.toNat_ofNat]
    unfold fieldAt at *; omega
  case mla space form accumulate =>
    rw [bitAt_eq_true] at accumulate
    simp only [encodeNat, encodeMultiply, code_condAt, regAt_val, bitAt_toNat]
    unfold fieldAt at *; omega
  case mul space form accumulate =>
    rw [bitAt_eq_false] at accumulate
    simp only [encodeNat, encodeMultiply, code_condAt, regAt_val, bitAt_toNat]
    unfold fieldAt at *; omega
  case memXfer space word form =>
    rw [encodeNat_memXfer, encodeMemXfer_eq, indexNat_indexAt n form]
    simp only [code_condAt, regAt_val, bitAt_toNat, toNat_ofNat_eq_fieldAt]
    unfold fieldAt at *; omega
  case dataProc space notExtra notMisc op opcode =>
    have code := dpCode_of_ofCode _ op opcode
    have bitS : (bitAt n 20 || op.isTest).toNat = fieldAt n 20 1 := by
      cases test : op.isTest
      case false => rw [Bool.or_false, bitAt_toNat]
      case true =>
        have testCode := (code_iff_isTest op).2 test
        rw [Bool.or_true, Bool.toNat_true]
        unfold fieldAt at *; omega
    rw [encodeNat_dataProc, encodeDataProc_eq, bitS, code, operandNat_operand2At n notExtra]
    simp only [code_condAt, regAt_val]
    clear bitS opcode code
    unfold fieldAt at *; omega

/-- Settles O2: a word that decodes has a class, and the encoder puts every field that the class reads back
at its place. -/
theorem encodeOfDecodedWord : Obligations.EncodeOfDecodedWord := by
  intro w i decoded
  obtain ⟨cls, -⟩ := (decodeWord_eq_ok_iff w i).1 decoded
  rw [encode, encodeNat_of_class w.toNat i w.isLt cls, BitVec.ofNat_toNat, BitVec.setWidth_eq]

/-! Reading back the fields of an encoded instruction -/

section
variable {n : Nat}

theorem condAt_of_field {c : Cond} (h : fieldAt n 28 4 = c.code) : condAt n = c := by
  rw [condAt, h]
  cases c <;> rfl

theorem regAt_of_field {lo : Nat} {r : Reg} (h : fieldAt n lo 4 = r.val) : regAt n lo = r :=
  Fin.ext ((regAt_val n lo).trans h)

theorem bitAt_of_field {k : Nat} {b : Bool} (h : fieldAt n k 1 = b.toNat) : bitAt n k = b := by
  rw [bitAt, h]
  cases b <;> rfl

theorem ofNat_of_field {len : Nat} {v : BitVec len} (h : fieldAt n 0 len = v.toNat) : BitVec.ofNat len n = v :=
  BitVec.eq_of_toNat_eq ((toNat_ofNat_eq_fieldAt n len).trans h)

theorem fin_of_field {k x : Nat} [NeZero k] {v : Fin k} (h : x = v.val) : Fin.ofNat k x = v :=
  Fin.ext ((congrArg (· % k) h).trans (Nat.mod_eq_of_lt v.isLt))

theorem shiftType_of_field {ty : ShiftType} (h : fieldAt n 5 2 = ty.code) :
    ShiftType.ofCode (fieldAt n 5 2) = ty := by
  rw [h]
  cases ty <;> rfl

end

theorem dpOp_ofCode_code (op : DpOp) : DpOp.ofCode op.code = some op := by cases op <;> rfl

theorem dataProc_or_isTest (op : DpOp) (c : Cond) (sf : Bool) (rn rd : Reg) (o : Operand2) :
    Instr.dataProc op c (sf || op.isTest) rn rd o = Instr.dataProc op c sf rn rd o := by
  cases op <;> cases o <;> simp [DpOp.isTest, Instr.dataProc]

theorem operand2At_of_fields {n : Nat} {o : Operand2}
    (h : fieldAt n 25 1 * 2 ^ 25 + fieldAt n 0 12 = operandNat o) : operand2At n = o := by
  unfold operand2At
  cases o
  case imm rot imm8 =>
    have bound := imm8.isLt
    simp only [operandNat] at h
    rw [if_pos ((bitAt_eq_true n 25).2 (by unfold fieldAt at *; omega)),
      regAt_of_field (r := rot) (by unfold fieldAt at *; omega),
      ofNat_of_field (v := imm8) (by unfold fieldAt at *; omega)]
  case regImm rm ty amount =>
    have bound := Laws.shiftCode_lt ty
    simp only [operandNat] at h
    rw [if_neg (mt (bitAt_eq_true n 25).1 (by unfold fieldAt at *; omega)),
      if_neg (mt (bitAt_eq_true n 4).1 (by unfold fieldAt at *; omega)),
      regAt_of_field (r := rm) (by unfold fieldAt at *; omega),
      shiftType_of_field (ty := ty) (by unfold fieldAt at *; omega),
      fin_of_field (v := amount) (by unfold fieldAt at *; omega)]
  case regReg rm ty rs =>
    have bound := Laws.shiftCode_lt ty
    simp only [operandNat] at h
    rw [if_neg (mt (bitAt_eq_true n 25).1 (by unfold fieldAt at *; omega)),
      if_pos ((bitAt_eq_true n 4).2 (by unfold fieldAt at *; omega)),
      regAt_of_field (r := rm) (by unfold fieldAt at *; omega),
      shiftType_of_field (ty := ty) (by unfold fieldAt at *; omega),
      regAt_of_field (r := rs) (by unfold fieldAt at *; omega)]

theorem indexAt_of_fields {n : Nat} {ix : Index}
    (h : fieldAt n 24 1 * 2 ^ 24 + fieldAt n 21 1 * 2 ^ 21 = indexNat ix) : indexAt n = ix := by
  unfold indexAt
  cases ix
  all_goals simp only [indexNat] at h
  case offset =>
    rw [if_pos ((bitAt_eq_true n 24).2 (by unfold fieldAt at *; omega)),
      if_neg (mt (bitAt_eq_true n 21).1 (by unfold fieldAt at *; omega))]
  case preIndexed =>
    rw [if_pos ((bitAt_eq_true n 24).2 (by unfold fieldAt at *; omega)),
      if_pos ((bitAt_eq_true n 21).2 (by unfold fieldAt at *; omega))]
  case postIndexed => rw [if_neg (mt (bitAt_eq_true n 24).1 (by unfold fieldAt at *; omega))]

/-- The operand of an encoded word fills bit 25 and the low 12 bits, and is not of the extra space (R110). -/
theorem operandNat_layout (o : Operand2) : ∃ immediate low, operandNat o = immediate * 2 ^ 25 + low ∧
    immediate < 2 ∧ low < 2 ^ 12 ∧ ¬(immediate = 0 ∧ fieldAt low 7 1 = 1 ∧ fieldAt low 4 1 = 1) := by
  cases o
  case imm rot imm8 =>
    have bound := imm8.isLt
    exact ⟨1, rot.val * 2 ^ 8 + imm8.toNat, by simp only [operandNat]; omega, by omega, by omega, by omega⟩
  case regImm rm ty amount =>
    have bound := Laws.shiftCode_lt ty
    exact ⟨0, amount.val * 2 ^ 7 + ty.code * 2 ^ 5 + rm.val, by simp only [operandNat]; omega, by omega,
      by omega, by unfold fieldAt; omega⟩
  case regReg rm ty rs =>
    have bound := Laws.shiftCode_lt ty
    exact ⟨0, rs.val * 2 ^ 8 + ty.code * 2 ^ 5 + 2 ^ 4 + rm.val, by simp only [operandNat]; omega, by omega,
      by omega, by unfold fieldAt; omega⟩

theorem indexNat_layout (ix : Index) : ∃ p w, indexNat ix = p * 2 ^ 24 + w * 2 ^ 21 ∧ p < 2 ∧ w ≤ p := by
  cases ix
  case offset => exact ⟨1, 0, rfl, by decide, by decide⟩
  case preIndexed => exact ⟨1, 1, rfl, by decide, by decide⟩
  case postIndexed => exact ⟨0, 0, rfl, by decide, by decide⟩

/-! The class of an encoded instruction, family by family; each word is below `2 ^ 32` -/

theorem class_encode_dataProc (op : DpOp) (c : Cond) (sf : Bool) (rn rd : Reg) (o : Operand2) :
    encodeNat (Instr.dataProc op c sf rn rd o) < 2 ^ 32 ∧
    Class (encodeNat (Instr.dataProc op c sf rn rd o)) (Instr.dataProc op c sf rn rd o) := by
  have codeC := Laws.code_lt c
  have codeOp := Laws.dpCode_lt op
  have bitS := (sf || op.isTest).toNat_le
  have test : ¬(op.code / 4 = 2 ∧ (sf || op.isTest).toNat = 0) := by
    rw [code_iff_isTest]
    rintro ⟨isTest, clear⟩
    rw [isTest, Bool.or_true] at clear
    cases clear
  obtain ⟨immediate, low, layout, immediate_lt, low_lt, notExtra⟩ := operandNat_layout o
  generalize hn : encodeNat (Instr.dataProc op c sf rn rd o) = n
  rw [encodeNat_dataProc, encodeDataProc_eq, layout] at hn
  refine ⟨by omega, ?_⟩
  have cond : condAt n = c := condAt_of_field (by unfold fieldAt; omega)
  have opcode : fieldAt n 21 4 = op.code := by unfold fieldAt; omega
  have s : bitAt n 20 = (sf || op.isTest) := bitAt_of_field (by unfold fieldAt; omega)
  have hrn : regAt n 16 = rn := regAt_of_field (by unfold fieldAt; omega)
  have hrd : regAt n 12 = rd := regAt_of_field (by unfold fieldAt; omega)
  have hi : fieldAt n 25 1 = immediate := by unfold fieldAt; omega
  have lo : fieldAt n 0 12 = low := by unfold fieldAt; omega
  have operand : operand2At n = o := operand2At_of_fields (by rw [hi, lo, layout])
  have cls : Class n (Instr.dataProc op (condAt n) (bitAt n 20) (regAt n 16) (regAt n 12) (operand2At n)) :=
    .dataProc (by unfold fieldAt; omega) (by unfold fieldAt at *; omega) (by unfold fieldAt; omega) op
      (by rw [opcode, dpOp_ofCode_code])
  rwa [cond, s, hrn, hrd, operand, dataProc_or_isTest] at cls

theorem class_encode_memXfer (load : Bool) (ix : Index) (c : Cond) (up : Bool) (rn rd : Reg) (off : BitVec 12) :
    encodeNat (Instr.memXfer load ix c up rn rd off) < 2 ^ 32 ∧
    Class (encodeNat (Instr.memXfer load ix c up rn rd off)) (Instr.memXfer load ix c up rn rd off) := by
  have code := Laws.code_lt c
  have bitL := load.toNat_le
  have bitU := up.toNat_le
  have bound := off.isLt
  obtain ⟨p, w, layout, p_lt, w_le⟩ := indexNat_layout ix
  generalize hn : encodeNat (Instr.memXfer load ix c up rn rd off) = n
  rw [encodeNat_memXfer, encodeMemXfer_eq, layout] at hn
  refine ⟨by omega, ?_⟩
  have cond : condAt n = c := condAt_of_field (by unfold fieldAt; omega)
  have l : bitAt n 20 = load := bitAt_of_field (by unfold fieldAt; omega)
  have hp : fieldAt n 24 1 = p := by unfold fieldAt; omega
  have hw : fieldAt n 21 1 = w := by unfold fieldAt; omega
  have index : indexAt n = ix := indexAt_of_fields (by rw [hp, hw, layout])
  have u : bitAt n 23 = up := bitAt_of_field (by unfold fieldAt; omega)
  have hrn : regAt n 16 = rn := regAt_of_field (by unfold fieldAt; omega)
  have hrd : regAt n 12 = rd := regAt_of_field (by unfold fieldAt; omega)
  have offset : BitVec.ofNat 12 n = off := ofNat_of_field (by unfold fieldAt; omega)
  have cls := Class.memXfer (n := n) (by unfold fieldAt; omega) (by unfold fieldAt; omega)
    (by unfold fieldAt; omega)
  rwa [cond, l, index, u, hrn, hrd, offset] at cls

theorem class_encode_b (c : Cond) (k : BitVec 24) :
    encodeNat (.b c k) < 2 ^ 32 ∧ Class (encodeNat (.b c k)) (.b c k) := by
  have code := Laws.code_lt c
  have bound := k.isLt
  generalize hn : encodeNat (.b c k) = n
  simp only [encodeNat] at hn
  refine ⟨by omega, ?_⟩
  have cond : condAt n = c := condAt_of_field (by unfold fieldAt; omega)
  have target : BitVec.ofNat 24 n = k := ofNat_of_field (by unfold fieldAt; omega)
  have cls := Class.b (n := n) (by unfold fieldAt; omega) ((bitAt_eq_false _ _).2 (by unfold fieldAt; omega))
  rwa [cond, target] at cls

theorem class_encode_bl (c : Cond) (k : BitVec 24) :
    encodeNat (.bl c k) < 2 ^ 32 ∧ Class (encodeNat (.bl c k)) (.bl c k) := by
  have code := Laws.code_lt c
  have bound := k.isLt
  generalize hn : encodeNat (.bl c k) = n
  simp only [encodeNat] at hn
  refine ⟨by omega, ?_⟩
  have cond : condAt n = c := condAt_of_field (by unfold fieldAt; omega)
  have target : BitVec.ofNat 24 n = k := ofNat_of_field (by unfold fieldAt; omega)
  have cls := Class.bl (n := n) (by unfold fieldAt; omega) ((bitAt_eq_true _ _).2 (by unfold fieldAt; omega))
  rwa [cond, target] at cls

theorem class_encode_swi (c : Cond) (k : BitVec 24) :
    encodeNat (.swi c k) < 2 ^ 32 ∧ Class (encodeNat (.swi c k)) (.swi c k) := by
  have code := Laws.code_lt c
  have bound := k.isLt
  generalize hn : encodeNat (.swi c k) = n
  simp only [encodeNat] at hn
  refine ⟨by omega, ?_⟩
  have cond : condAt n = c := condAt_of_field (by unfold fieldAt; omega)
  have number : BitVec.ofNat 24 n = k := ofNat_of_field (by unfold fieldAt; omega)
  have cls := Class.swi (n := n) (by unfold fieldAt; omega)
  rwa [cond, number] at cls

theorem class_encode_bx (c : Cond) (rm : Reg) :
    encodeNat (.bx c rm) < 2 ^ 32 ∧ Class (encodeNat (.bx c rm)) (.bx c rm) := by
  have code := Laws.code_lt c
  generalize hn : encodeNat (.bx c rm) = n
  simp only [encodeNat] at hn
  refine ⟨by omega, ?_⟩
  have cond : condAt n = c := condAt_of_field (by unfold fieldAt; omega)
  have hrm : regAt n 0 = rm := regAt_of_field (by unfold fieldAt; omega)
  have cls := Class.bx (n := n) (by unfold fieldAt; omega)
  rwa [cond, hrm] at cls

theorem class_encode_wfi (c : Cond) : encodeNat (.wfi c) < 2 ^ 32 ∧ Class (encodeNat (.wfi c)) (.wfi c) := by
  have code := Laws.code_lt c
  generalize hn : encodeNat (.wfi c) = n
  simp only [encodeNat] at hn
  refine ⟨by omega, ?_⟩
  have cond : condAt n = c := condAt_of_field (by unfold fieldAt; omega)
  have cls := Class.wfi (n := n) (by unfold fieldAt; omega)
  rwa [cond] at cls

theorem class_encode_mrs (c : Cond) (spsr : Bool) (rd : Reg) :
    encodeNat (.mrs c spsr rd) < 2 ^ 32 ∧ Class (encodeNat (.mrs c spsr rd)) (.mrs c spsr rd) := by
  have code := Laws.code_lt c
  have bitR := spsr.toNat_le
  generalize hn : encodeNat (.mrs c spsr rd) = n
  simp only [encodeNat] at hn
  refine ⟨by omega, ?_⟩
  have cond : condAt n = c := condAt_of_field (by unfold fieldAt; omega)
  have source : bitAt n 22 = spsr := bitAt_of_field (by unfold fieldAt; omega)
  have hrd : regAt n 12 = rd := regAt_of_field (by unfold fieldAt; omega)
  have cls := Class.mrs (n := n) (by unfold fieldAt; omega) (by unfold fieldAt; omega) (by unfold fieldAt; omega)
  rwa [cond, source, hrd] at cls

theorem class_encode_msr (c : Cond) (mask : BitVec 4) (rm : Reg) :
    encodeNat (.msr c mask rm) < 2 ^ 32 ∧ Class (encodeNat (.msr c mask rm)) (.msr c mask rm) := by
  have code := Laws.code_lt c
  have bound := mask.isLt
  generalize hn : encodeNat (.msr c mask rm) = n
  simp only [encodeNat] at hn
  refine ⟨by omega, ?_⟩
  have cond : condAt n = c := condAt_of_field (by unfold fieldAt; omega)
  have fields : BitVec.ofNat 4 (fieldAt n 16 4) = mask := ofNat_of_field (by unfold fieldAt; omega)
  have hrm : regAt n 0 = rm := regAt_of_field (by unfold fieldAt; omega)
  have cls := Class.msr (n := n) (by unfold fieldAt; omega) (by unfold fieldAt; omega)
  rwa [cond, fields, hrm] at cls

section
variable (c : Cond) (sf : Bool) (rd rn rs rm : Reg)

theorem multiply_fields (a : Nat) (ha : a < 2) {n : Nat} (hn : encodeMultiply a c sf rd rn rs rm = n) :
    n < 2 ^ 32 ∧ fieldAt n 22 6 = 0 ∧ fieldAt n 4 4 = 0b1001 ∧ fieldAt n 21 1 = a ∧ condAt n = c ∧
    bitAt n 20 = sf ∧ regAt n 16 = rd ∧ regAt n 12 = rn ∧ regAt n 8 = rs ∧ regAt n 0 = rm := by
  have code := Laws.code_lt c
  have bitS := sf.toNat_le
  simp only [encodeMultiply] at hn
  exact ⟨by omega, by unfold fieldAt; omega, by unfold fieldAt; omega, by unfold fieldAt; omega,
    condAt_of_field (by unfold fieldAt; omega), bitAt_of_field (by unfold fieldAt; omega),
    regAt_of_field (by unfold fieldAt; omega), regAt_of_field (by unfold fieldAt; omega),
    regAt_of_field (by unfold fieldAt; omega), regAt_of_field (by unfold fieldAt; omega)⟩

theorem class_encode_mul : encodeNat (.mul c sf rd rn rs rm) < 2 ^ 32 ∧
    Class (encodeNat (.mul c sf rd rn rs rm)) (.mul c sf rd rn rs rm) := by
  obtain ⟨lt, space, form, bitA, cond, s, hrd, hrn, hrs, hrm⟩ :=
    multiply_fields c sf rd rn rs rm 0 (by decide) rfl
  have cls := Class.mul space form ((bitAt_eq_false _ _).2 bitA)
  rw [cond, s, hrd, hrn, hrs, hrm] at cls
  exact ⟨lt, cls⟩

theorem class_encode_mla : encodeNat (.mla c sf rd rn rs rm) < 2 ^ 32 ∧
    Class (encodeNat (.mla c sf rd rn rs rm)) (.mla c sf rd rn rs rm) := by
  obtain ⟨lt, space, form, bitA, cond, s, hrd, hrn, hrs, hrm⟩ :=
    multiply_fields c sf rd rn rs rm 1 (by decide) rfl
  have cls := Class.mla space form ((bitAt_eq_true _ _).2 bitA)
  rw [cond, s, hrd, hrn, hrs, hrm] at cls
  exact ⟨lt, cls⟩

end

section
variable (c : Cond) (id : Cp15Id) (rd : Reg)

theorem coproc_fields (l : Nat) (hl : l < 2) {n : Nat} (hn : encodeCoproc l c id rd = n) :
    n < 2 ^ 32 ∧ fieldAt n 24 4 = 0b1110 ∧ fieldAt n 4 1 = 1 ∧ fieldAt n 8 4 = 0b1111 ∧ fieldAt n 20 1 = l ∧
    condAt n = c ∧ cp15IdAt n = id ∧ regAt n 12 = rd := by
  have code := Laws.code_lt c
  obtain ⟨opc1, crn, crm, opc2⟩ := id
  simp only [encodeCoproc] at hn
  refine ⟨by omega, by unfold fieldAt; omega, by unfold fieldAt; omega, by unfold fieldAt; omega,
    by unfold fieldAt; omega, condAt_of_field (by unfold fieldAt; omega), ?_,
    regAt_of_field (by unfold fieldAt; omega)⟩
  rw [cp15IdAt, fin_of_field (v := opc1) (by unfold fieldAt; omega),
    fin_of_field (v := crn) (by unfold fieldAt; omega), fin_of_field (v := crm) (by unfold fieldAt; omega),
    fin_of_field (v := opc2) (by unfold fieldAt; omega)]

theorem class_encode_mrc :
    encodeNat (.mrc c id rd) < 2 ^ 32 ∧ Class (encodeNat (.mrc c id rd)) (.mrc c id rd) := by
  obtain ⟨lt, space, transfer, cp15, bitL, cond, register, hrd⟩ := coproc_fields c id rd 1 (by decide) rfl
  have cls := Class.mrc space transfer cp15 ((bitAt_eq_true _ _).2 bitL)
  rw [cond, register, hrd] at cls
  exact ⟨lt, cls⟩

theorem class_encode_mcr :
    encodeNat (.mcr c id rd) < 2 ^ 32 ∧ Class (encodeNat (.mcr c id rd)) (.mcr c id rd) := by
  obtain ⟨lt, space, transfer, cp15, bitL, cond, register, hrd⟩ := coproc_fields c id rd 0 (by decide) rfl
  have cls := Class.mcr space transfer cp15 ((bitAt_eq_false _ _).2 bitL)
  rw [cond, register, hrd] at cls
  exact ⟨lt, cls⟩

end

theorem class_encode (i : Instr) : encodeNat i < 2 ^ 32 ∧ Class (encodeNat i) i := by
  rcases Instr.shapes i with ⟨op, c, sf, rn, rd, o, rfl⟩ | ⟨load, ix, c, up, rn, rd, off, rfl⟩ |
    ⟨c, k, rfl⟩ | ⟨c, k, rfl⟩ | ⟨c, rm, rfl⟩ | ⟨c, sf, rd, rn, rs, rm, rfl⟩ | ⟨c, sf, rd, rn, rs, rm, rfl⟩ |
    ⟨c, sp, rd, rfl⟩ | ⟨c, mask, rm, rfl⟩ | ⟨c, k, rfl⟩ | ⟨c, rfl⟩ | ⟨c, id, rd, rfl⟩ | ⟨c, id, rd, rfl⟩
  · exact class_encode_dataProc op c sf rn rd o
  · exact class_encode_memXfer load ix c up rn rd off
  · exact class_encode_b c k
  · exact class_encode_bl c k
  · exact class_encode_bx c rm
  · exact class_encode_mul c sf rd rn rs rm
  · exact class_encode_mla c sf rd rn rs rm
  · exact class_encode_mrs c sp rd
  · exact class_encode_msr c mask rm
  · exact class_encode_swi c k
  · exact class_encode_wfi c
  · exact class_encode_mrc c id rd
  · exact class_encode_mcr c id rd

/-- The decoder undoes the encoder on every instruction that R119 leaves. -/
theorem decodeWord_encode (i : Instr) (wf : i.wf = true) : decodeWord (encode i) = .ok i := by
  obtain ⟨lt, cls⟩ := class_encode i
  rw [decodeWord_eq_ok_iff, encode, BitVec.toNat_ofNat, Nat.mod_eq_of_lt lt]
  exact ⟨cls, wf⟩

/-- Settles O1: the four bytes are the word again, the word is of the instruction's own class, and the fields
that the class reads are those encoded. -/
theorem decodeOfEncodedInstruction : Obligations.DecodeOfEncodedInstruction := by
  intro i rest wf
  simp only [wordBytes, List.cons_append, List.nil_append, decodeBytes, wordOfBytes_extract, decodeWord_encode i wf]

end Sys2Proof.RoundTrip

/-! The words that do not decode (30_encoding.md sections 5 and 6), by the class that their fields fix. -/

namespace Sys2Proof.RoundTrip
open Sys2Proof.Machine Sys2Proof.Spec Sys2Proof.Encoding

/-! Words that do not decode -/

/-- A word is refused when every class it is of has an exclusion of R119 (and a word of no class is). -/
theorem decodeWord_eq_error (w : Word) (h : ∀ i, Class w.toNat i → i.wf = false) :
    decodeWord w = .error .unsupportedEncoding := by
  unfold decodeWord
  split
  case h_1 i found =>
    rw [h i (class_of_matchPattern _ i found)]
    rfl
  case h_2 => rfl

/-- Words of the register-offset and media space, of load/store multiple and of coprocessor load/store. -/
theorem no_class_of_other_space (n : Nat) (i : Instr)
    (space : fieldAt n 25 3 = 0b011 ∨ fieldAt n 25 3 = 0b100 ∨ fieldAt n 25 3 = 0b110) : ¬ Class n i := by
  intro cls
  cases cls <;> (unfold fieldAt at *; omega)

/-- Byte loads and stores and the T forms. -/
theorem no_class_of_byte_or_T (n : Nat) (i : Instr) (space : fieldAt n 25 3 = 0b010)
    (form : fieldAt n 22 1 = 1 ∨ (fieldAt n 24 1 = 0 ∧ fieldAt n 21 1 = 1)) : ¬ Class n i := by
  intro cls
  cases cls <;> (unfold fieldAt at *; omega)

/-- RSC: of the classes below bit 26 only data processing has that opcode, and it has no such opcode. -/
theorem no_class_of_rsc (n : Nat) (i : Instr) (space : fieldAt n 26 2 = 0b00) (opcode : fieldAt n 21 4 = 0b0111) :
    ¬ Class n i := by
  intro cls
  cases cls
  case dataProc _ _ _ op found =>
    rw [opcode] at found
    cases found
  all_goals
    unfold fieldAt at *
    omega

/-- CDP and the transfers of other coprocessors. -/
theorem no_class_of_other_coproc (n : Nat) (i : Instr) (space : fieldAt n 24 4 = 0b1110)
    (form : fieldAt n 4 1 = 0 ∨ fieldAt n 8 4 ≠ 0b1111) : ¬ Class n i := by
  intro cls
  cases cls <;> (unfold fieldAt at *; omega)

/-- Settles O4: a word of a refused space has no class, and a word of the branch or SWI space has the class
of that space, which no exclusion of R119 is about. -/
theorem opcodeMapSpaces : Obligations.OpcodeMapSpaces := by
  intro w
  simp only [bits_eq_fieldAt]
  refine ⟨fun space => ?other, fun space form => ?byteOrT, fun space opcode => ?rsc, fun space form => ?coproc,
    fun space => ?branch, fun space => ?swi⟩
  case other => exact decodeWord_eq_error w fun i cls => absurd cls (no_class_of_other_space _ i space)
  case byteOrT => exact decodeWord_eq_error w fun i cls => absurd cls (no_class_of_byte_or_T _ i space form)
  case rsc => exact decodeWord_eq_error w fun i cls => absurd cls (no_class_of_rsc _ i space opcode)
  case coproc => exact decodeWord_eq_error w fun i cls => absurd cls (no_class_of_other_coproc _ i space form)
  case branch =>
    refine ⟨condAt w.toNat, BitVec.ofNat 24 w.toNat, ?_⟩
    cases link : bitAt w.toNat 24
    case false => exact .inl ((decodeWord_eq_ok_iff w _).2 ⟨.b space link, rfl⟩)
    case true => exact .inr ((decodeWord_eq_ok_iff w _).2 ⟨.bl space link, rfl⟩)
  case swi =>
    exact ⟨condAt w.toNat, BitVec.ofNat 24 w.toNat, (decodeWord_eq_ok_iff w _).2 ⟨.swi space, rfl⟩⟩

/-! The exclusions of R119 on the fields of a word -/

theorem regAt_eq_iff (n lo lo' : Nat) : regAt n lo = regAt n lo' ↔ fieldAt n lo 4 = fieldAt n lo' 4 := by
  rw [← regAt_val n lo, ← regAt_val n lo', Fin.ext_iff]

theorem regAt_eq_fifteen (n lo : Nat) : regAt n lo = 15 ↔ fieldAt n lo 4 = 15 := by
  rw [← regAt_val n lo, Fin.ext_iff]
  rfl

theorem usesRn_iff (op : DpOp) : op.usesRn = true ↔ op.code ≠ 0b1101 ∧ op.code ≠ 0b1111 := by
  cases op <;> decide

theorem wf_dataProc_regReg (op : DpOp) (c : Cond) (sf : Bool) (rn rd rm rs : Reg) (ty : ShiftType) :
    (Instr.dataProc op c sf rn rd (.regReg rm ty rs)).wf = wfRegReg op rn rd rm rs := by
  cases op <;> rfl

theorem wfRegReg_eq_false (op : DpOp) (rn rd rm rs : Reg) : wfRegReg op rn rd rm rs = false ↔
    rm = 15 ∨ rs = 15 ∨ (op.usesRn = true ∧ rn = 15) ∨ (op.isTest = false ∧ rd = 15) := by
  simp only [wfRegReg, Bool.and_eq_false_iff, Bool.not_eq_false', bne_eq_false_iff_eq, Bool.and_eq_true,
    beq_iff_eq, Bool.not_eq_true', or_assoc]

/-- Base writeback (R103): pre-indexed and post-indexed. -/
theorem wf_memXfer_eq_false (load : Bool) (ix : Index) (c : Cond) (up : Bool) (rn rd : Reg) (off : BitVec 12)
    (writeback : ix ≠ .offset) (h : rn = rd ∨ rn = 15) :
    (Instr.memXfer load ix c up rn rd off).wf = false := by
  have excluded : wfWriteback rn rd = false := by
    rcases h with same | pc
    · simp [wfWriteback, same]
    · simp [wfWriteback, pc]
  cases ix
  case offset => exact absurd rfl writeback
  all_goals cases load <;> exact excluded

theorem indexAt_ne_offset (n : Nat) (h : fieldAt n 24 1 = 0 ∨ fieldAt n 21 1 = 1) : indexAt n ≠ .offset := by
  rw [indexAt]
  split
  case isTrue indexed =>
    rw [bitAt_eq_true] at indexed
    rw [if_pos ((bitAt_eq_true n 21).2 (by omega))]
    decide
  case isFalse => decide

section
variable (n : Nat) (i : Instr) (cls : Class n i)
include cls

/-- Exclusion a. -/
theorem not_wf_of_registerShift (space : fieldAt n 25 3 = 0b000) (bit7 : fieldAt n 7 1 = 0)
    (bit4 : fieldAt n 4 1 = 1) (notMisc : ¬(fieldAt n 23 2 = 0b10 ∧ fieldAt n 20 1 = 0))
    (excluded : fieldAt n 0 4 = 15 ∨ fieldAt n 8 4 = 15 ∨
      (fieldAt n 16 4 = 15 ∧ fieldAt n 21 4 ≠ 0b1101 ∧ fieldAt n 21 4 ≠ 0b1111) ∨
      (fieldAt n 12 4 = 15 ∧ fieldAt n 23 2 ≠ 0b10)) : i.wf = false := by
  cases cls
  case dataProc _ notExtra _ op opcode =>
    have code := dpCode_of_ofCode _ op opcode
    have operand : operand2At n = .regReg (regAt n 0) (ShiftType.ofCode (fieldAt n 5 2)) (regAt n 8) := by
      rw [operand2At, if_neg (mt (bitAt_eq_true n 25).1 (by unfold fieldAt at *; omega)),
        if_pos ((bitAt_eq_true n 4).2 bit4)]
    have test : op.isTest = false ↔ fieldAt n 23 2 ≠ 0b10 := by
      rw [← Bool.not_eq_true, ← code_iff_isTest, code]
      unfold fieldAt
      omega
    rw [operand, wf_dataProc_regReg, wfRegReg_eq_false, usesRn_iff, test, code]
    simp only [regAt_eq_fifteen]
    omega
  all_goals
    unfold fieldAt at *
    omega

/-- Exclusions b and c. -/
theorem not_wf_of_writeback (space : fieldAt n 25 3 = 0b010) (writeback : fieldAt n 24 1 = 0 ∨ fieldAt n 21 1 = 1)
    (excluded : fieldAt n 16 4 = fieldAt n 12 4 ∨ fieldAt n 16 4 = 15) : i.wf = false := by
  cases cls
  case memXfer =>
    refine wf_memXfer_eq_false _ _ _ _ _ _ _ (indexAt_ne_offset n writeback) ?_
    rwa [regAt_eq_iff, regAt_eq_fifteen]
  all_goals
    unfold fieldAt at *
    omega

/-- Exclusion d. -/
theorem not_wf_of_multiply (space : fieldAt n 22 6 = 0) (form : fieldAt n 4 4 = 0b1001)
    (excluded : fieldAt n 16 4 = 15 ∨ fieldAt n 0 4 = 15 ∨ fieldAt n 8 4 = 15 ∨
      (fieldAt n 21 1 = 1 ∧ fieldAt n 12 4 = 15)) : i.wf = false := by
  cases cls
  case mla =>
    simp only [Instr.wf, Bool.and_eq_false_iff, bne_eq_false_iff_eq, regAt_eq_fifteen]
    omega
  case mul accumulate =>
    rw [bitAt_eq_false] at accumulate
    simp only [Instr.wf, Bool.and_eq_false_iff, bne_eq_false_iff_eq, regAt_eq_fifteen]
    omega
  all_goals
    unfold fieldAt at *
    omega

/-- Exclusion e, MRS. -/
theorem not_wf_of_mrs (space : fieldAt n 23 5 = 0b00010) (form : fieldAt n 16 6 = 0b001111)
    (zero : fieldAt n 0 12 = 0) (excluded : fieldAt n 12 4 = 15) : i.wf = false := by
  cases cls
  case mrs => simp only [Instr.wf, bne_eq_false_iff_eq, regAt_eq_fifteen, excluded]
  all_goals
    unfold fieldAt at *
    omega

/-- Exclusion e, MSR. -/
theorem not_wf_of_msr (space : fieldAt n 20 8 = 0b00010010) (form : fieldAt n 4 12 = 0xF00)
    (excluded : fieldAt n 0 4 = 15) : i.wf = false := by
  cases cls
  case msr => simp only [Instr.wf, bne_eq_false_iff_eq, regAt_eq_fifteen, excluded]
  all_goals
    unfold fieldAt at *
    omega

/-- Exclusion f. -/
theorem not_wf_of_coproc (space : fieldAt n 24 4 = 0b1110) (excluded : fieldAt n 12 4 = 15) : i.wf = false := by
  cases cls
  case mrc => simp only [Instr.wf, bne_eq_false_iff_eq, regAt_eq_fifteen, excluded]
  case mcr => simp only [Instr.wf, bne_eq_false_iff_eq, regAt_eq_fifteen, excluded]
  all_goals
    unfold fieldAt at *
    omega

end

/-- Settles O5: the fields fix the class of the word, and an exclusion applies to its registers. -/
theorem registerExclusionsRefused : Obligations.RegisterExclusionsRefused := by
  intro w
  simp only [bits_eq_fieldAt]
  refine ⟨fun space bit7 bit4 notMisc excluded => ?a, fun space writeback excluded => ?bc,
    fun space form excluded => ?d, fun space form zero excluded => ?mrs, fun space form excluded => ?msr,
    fun space excluded => ?f⟩
  all_goals refine decodeWord_eq_error w fun i cls => ?_
  case a => exact not_wf_of_registerShift _ i cls space bit7 bit4 notMisc excluded
  case bc => exact not_wf_of_writeback _ i cls space writeback excluded
  case d => exact not_wf_of_multiply _ i cls space form excluded
  case mrs => exact not_wf_of_mrs _ i cls space form zero excluded
  case msr => exact not_wf_of_msr _ i cls space form excluded
  case f => exact not_wf_of_coproc _ i cls space excluded

/-- Settles O6: each word is evaluated. -/
theorem writtenOutWordsDecode : Obligations.WrittenOutWordsDecode := by
  unfold Obligations.WrittenOutWordsDecode
  decide

end Sys2Proof.RoundTrip

/-! What an instruction that completes can have done, said once for every instruction (`Effect`), and the
invariant of reachable states (10_state.md R33, R39, R46) along every step. -/

namespace Sys2Proof.WholeMachine
open Sys2Proof.Machine Sys2Proof.Spec

/-! The end of a data-processing instruction and of a multiply -/

section
variable (op : DpOp) (sf : Bool) (m : Mode) (rd : Reg) (o : AluOut) (s : State)

@[simp] theorem dataProcCommit_cpsr :
    (dataProcCommit op sf m rd o s).cpsr = if sf then withNZCV s.cpsr o else s.cpsr := by
  unfold dataProcCommit; cases op.isTest <;> cases sf <;> simp
@[simp] theorem dataProcCommit_spsrSvc : (dataProcCommit op sf m rd o s).spsrSvc = s.spsrSvc := by
  unfold dataProcCommit; cases op.isTest <;> cases sf <;> simp
@[simp] theorem dataProcCommit_spsrUnd : (dataProcCommit op sf m rd o s).spsrUnd = s.spsrUnd := by
  unfold dataProcCommit; cases op.isTest <;> cases sf <;> simp
@[simp] theorem dataProcCommit_cp15 : (dataProcCommit op sf m rd o s).cp15 = s.cp15 := by
  unfold dataProcCommit; cases op.isTest <;> cases sf <;> simp
@[simp] theorem dataProcCommit_run : (dataProcCommit op sf m rd o s).run = s.run := by
  unfold dataProcCommit; cases op.isTest <;> cases sf <;> simp
@[simp] theorem dataProcCommit_mem : (dataProcCommit op sf m rd o s).mem = s.mem := by
  unfold dataProcCommit; cases op.isTest <;> cases sf <;> simp
@[simp] theorem dataProcCommit_platform : (dataProcCommit op sf m rd o s).platform = s.platform := by
  unfold dataProcCommit; cases op.isTest <;> cases sf <;> simp
@[simp] theorem dataProcCommit_irqPending : (dataProcCommit op sf m rd o s).irqPending = s.irqPending := by
  unfold dataProcCommit; cases op.isTest <;> cases sf <;> simp
@[simp] theorem dataProcCommit_cfg : (dataProcCommit op sf m rd o s).cfg = s.cfg := by
  unfold dataProcCommit; cases op.isTest <;> cases sf <;> simp
@[simp] theorem dataProcCommit_out : (dataProcCommit op sf m rd o s).out = okOutput s := by
  unfold dataProcCommit; cases op.isTest <;> cases sf <;> simp [okOutput]

end

section
variable (sf : Bool) (m : Mode) (rd : Reg) (v : Word) (s : State)

@[simp] theorem multiplyCommit_cpsr :
    (multiplyCommit sf m rd v s).cpsr = if sf then withNZ s.cpsr v else s.cpsr := by
  unfold multiplyCommit; cases sf <;> simp
@[simp] theorem multiplyCommit_spsrSvc : (multiplyCommit sf m rd v s).spsrSvc = s.spsrSvc := by
  unfold multiplyCommit; cases sf <;> simp
@[simp] theorem multiplyCommit_spsrUnd : (multiplyCommit sf m rd v s).spsrUnd = s.spsrUnd := by
  unfold multiplyCommit; cases sf <;> simp
@[simp] theorem multiplyCommit_cp15 : (multiplyCommit sf m rd v s).cp15 = s.cp15 := by
  unfold multiplyCommit; cases sf <;> simp
@[simp] theorem multiplyCommit_run : (multiplyCommit sf m rd v s).run = s.run := by
  unfold multiplyCommit; cases sf <;> simp
@[simp] theorem multiplyCommit_mem : (multiplyCommit sf m rd v s).mem = s.mem := by
  unfold multiplyCommit; cases sf <;> simp
@[simp] theorem multiplyCommit_platform : (multiplyCommit sf m rd v s).platform = s.platform := by
  unfold multiplyCommit; cases sf <;> simp
@[simp] theorem multiplyCommit_irqPending : (multiplyCommit sf m rd v s).irqPending = s.irqPending := by
  unfold multiplyCommit; cases sf <;> simp
@[simp] theorem multiplyCommit_cfg : (multiplyCommit sf m rd v s).cfg = s.cfg := by
  unfold multiplyCommit; cases sf <;> simp
@[simp] theorem multiplyCommit_out : (multiplyCommit sf m rd v s).out = okOutput s := by
  unfold multiplyCommit; cases sf <;> simp [okOutput]

end

/-! What an instruction did -/

/-- The state `t` that instruction `i` answers in state `s`: skipped, or its own effect in the current
mode `m`. -/
inductive Effect (s : State) : Instr → State → Prop
  | skipped (i : Instr) : Effect s i s.skipped
  | dataProc (op : DpOp) (c : Cond) (sf : Bool) (rn rd : Reg) (o : Operand2) (m : Mode) (v : AluOut)
      (mode : s.mode = some m) :
      Effect s (Instr.dataProc op c sf rn rd o) (dataProcCommit op (sf || op.isTest) m rd v s)
  | movsPc (c : Cond) (rn : Reg) (o : Operand2) (m m' : Mode) (p v : Word) (mode : s.mode = some m)
      (privileged : m.privileged = true) (saved : s.spsr m = some p)
      (implemented : Mode.ofBits (modeField p) = some m') :
      Effect s (Instr.dataProc .mov c true rn 15 o) (({ s with cpsr := p }.redirect v).completed)
  | load (ix : Index) (c : Cond) (up : Bool) (rn rd : Reg) (off : BitVec 12) (m : Mode) (a v b : Word)
      (d : BusContents) (mode : s.mode = some m)
      (read : memRead (busOf s.cfg) .load a s = .ok (v, s.withContents d)) :
      Effect s (Instr.memXfer true ix c up rn rd off)
        (((s.withContents d).writeBack m ix rn b).writeDest m rd v).completed
  | store (ix : Index) (c : Cond) (up : Bool) (rn rd : Reg) (off : BitVec 12) (m : Mode) (a v b : Word)
      (d : BusContents) (mode : s.mode = some m)
      (write : memWrite (busOf s.cfg) a v s = .ok (s.withContents d)) :
      Effect s (Instr.memXfer false ix c up rn rd off)
        ((s.withContents d).writeBack m ix rn b).advance.completed
  | b (c : Cond) (n : BitVec 24) : Effect s (.b c n) (s.redirect (branchTarget s.pc n)).completed
  | bl (c : Cond) (n : BitVec 24) (m : Mode) (mode : s.mode = some m) :
      Effect s (.bl c n) ((s.writeReg m 14 (s.pc + 4#32)).redirect (branchTarget s.pc n)).completed
  | bx (c : Cond) (rm : Reg) (v : Word) (bit : Bool) :
      Effect s (.bx c rm) ({ s with cpsr := withBit s.cpsr 5 bit }.redirect v).completed
  | mul (c : Cond) (sf : Bool) (rd rn rs rm : Reg) (m : Mode) (v : Word) (mode : s.mode = some m) :
      Effect s (.mul c sf rd rn rs rm) (multiplyCommit sf m rd v s)
  | mla (c : Cond) (sf : Bool) (rd rn rs rm : Reg) (m : Mode) (v : Word) (mode : s.mode = some m) :
      Effect s (.mla c sf rd rn rs rm) (multiplyCommit sf m rd v s)
  | mrs (c : Cond) (sp : Bool) (rd : Reg) (m : Mode) (v : Word) (mode : s.mode = some m) :
      Effect s (.mrs c sp rd) (s.writeDest m rd v).completed
  | msr (c : Cond) (mask : BitVec 4) (rm : Reg) (m : Mode) (v p : Word) (mode : s.mode = some m)
      (implemented : mask.getLsbD 0 = true → m.privileged = true → ∃ m', Mode.ofBits (modeField v) = some m')
      (bits : ∀ j, p.getLsbD j = if 28 ≤ j ∧ mask.getLsbD 3 = true then v.getLsbD j
        else if j < 5 ∧ mask.getLsbD 0 = true ∧ m.privileged = true then v.getLsbD j else s.cpsr.getLsbD j) :
      Effect s (.msr c mask rm) ({ s with cpsr := p }.advance).completed
  | swi (c : Cond) (n : BitVec 24) : Effect s (.swi c n) (raiseSoftwareInterrupt n s)
  | wfi (c : Cond) (passed : conditionPassed c s.cpsr = true) :
      Effect s (.wfi c) ({ s with run := .halted }.advance).completed
  | mrc (c : Cond) (id : Cp15Id) (rd : Reg) (m : Mode) (v : Word) (mode : s.mode = some m) :
      Effect s (.mrc c id rd) (s.writeDest m rd v).completed
  | mcr (c : Cond) (id : Cp15Id) (rd : Reg) (v reset : Word)
      (listed : cellGet (cp15Number id) s.cfg.cp15 = some reset) :
      Effect s (.mcr c id rd) ({ s with cp15 := cellSet (cp15Number id) v s.cp15 }.advance).completed

theorem effect_dataProc (op : DpOp) (c : Cond) (sf : Bool) (rn rd : Reg) (o : Operand2) (s t : State)
    (h : exec (Instr.dataProc op c sf rn rd o) s = .next t) : Effect s (Instr.dataProc op c sf rn rd o) t := by
  rw [exec_dataProc] at h
  rcases dataProcessing_eq_next _ _ _ _ _ _ _ _ h with ⟨-, rfl⟩ |
    ⟨-, m, mode, ⟨mov, flags, pc, priv, p, m', saved, impl, rfl⟩ | ⟨-, rfl⟩⟩
  · exact .skipped _
  · subst mov pc
    obtain rfl : sf = true := by simpa [DpOp.isTest] using flags
    exact .movsPc c rn o m m' p _ mode priv saved impl
  · exact .dataProc op c sf rn rd o m _ mode

/-- Every instruction that answers a state had its own effect, or was skipped. -/
theorem effect_of_exec (i : Instr) (s t : State) (h : exec i s = .next t) : Effect s i t := by
  rcases Instr.shapes i with ⟨op, c, sf, rn, rd, o, rfl⟩ | ⟨load, ix, c, up, rn, rd, off, rfl⟩ |
    ⟨c, n, rfl⟩ | ⟨c, n, rfl⟩ | ⟨c, rm, rfl⟩ | ⟨c, sf, rd, rn, rs, rm, rfl⟩ | ⟨c, sf, rd, rn, rs, rm, rfl⟩ |
    ⟨c, sp, rd, rfl⟩ | ⟨c, mask, rm, rfl⟩ | ⟨c, n, rfl⟩ | ⟨c, rfl⟩ | ⟨c, id, rd, rfl⟩ | ⟨c, id, rd, rfl⟩
  · exact effect_dataProc op c sf rn rd o s t h
  · cases load
    case false =>
      rw [exec_store] at h
      rcases storeWord_eq_next _ _ _ _ _ _ _ _ _ h with ⟨-, rfl⟩ | ⟨-, m, u, mode, write, rfl⟩
      · exact .skipped _
      · obtain ⟨d, -, rfl⟩ := (memWrite_eq_ok _ _ _ _ _).1 write
        exact .store ix c up rn rd off m _ _ _ d mode write
    case true =>
      rw [exec_load] at h
      rcases loadWord_eq_next _ _ _ _ _ _ _ _ _ h with ⟨-, rfl⟩ | ⟨-, m, v, u, mode, read, rfl⟩
      · exact .skipped _
      · obtain ⟨d, -, rfl⟩ := (memRead_eq_ok _ _ _ _ _ _).1 read
        exact .load ix c up rn rd off m _ v _ d mode read
  · rcases execB_eq_next c n s t h with ⟨-, rfl⟩ | ⟨-, rfl⟩
    · exact .skipped _
    · exact .b c n
  · rcases execBl_eq_next c n s t h with ⟨-, rfl⟩ | ⟨-, m, mode, rfl⟩
    · exact .skipped _
    · exact .bl c n m mode
  · rcases execBx_eq_next c rm s t h with ⟨-, rfl⟩ | ⟨-, m, mode, rfl⟩
    · exact .skipped _
    · exact .bx c rm _ _
  · rcases execMul_eq_next c sf rd rn rs rm s t h with ⟨-, rfl⟩ | ⟨-, m, mode, rfl⟩
    · exact .skipped _
    · exact .mul c sf rd rn rs rm m _ mode
  · rcases execMla_eq_next c sf rd rn rs rm s t h with ⟨-, rfl⟩ | ⟨-, m, mode, rfl⟩
    · exact .skipped _
    · exact .mla c sf rd rn rs rm m _ mode
  · rcases execMrs_eq_next c sp rd s t h with ⟨-, rfl⟩ | ⟨-, m, v, mode, -, rfl⟩
    · exact .skipped _
    · exact .mrs c sp rd m v mode
  · rcases execMsr_eq_next c mask rm s t h with ⟨-, rfl⟩ | ⟨-, m, p, mode, implemented, bits, rfl⟩
    · exact .skipped _
    · exact .msr c mask rm m _ p mode implemented bits
  · rcases execSwi_eq_next c n s t h with ⟨-, rfl⟩ | ⟨-, rfl⟩
    · exact .skipped _
    · exact .swi c n
  · rcases execWfi_eq_next c s t h with ⟨-, rfl⟩ | ⟨passed, rfl⟩
    · exact .skipped _
    · exact .wfi c passed
  · rcases execMrc_eq_next c id rd s t h with ⟨-, rfl⟩ | ⟨-, m, v, mode, -, rfl⟩
    · exact .skipped _
    · exact .mrc c id rd m v mode
  · rcases execMcr_eq_next c id rd s t h with ⟨-, rfl⟩ | ⟨-, m, -, ⟨reset, listed⟩, rfl⟩
    · exact .skipped _
    · exact .mcr c id rd _ reset listed

/-! What a step did -/

/-- The state in which a step that does not idle runs its word: Running, with what the fetch left behind the
bus (R130 steps 1 and 2). -/
def fetched (s : State) (d : BusContents) : State := { s with run := .running }.withContents d

/-- The state `t` that a step answers in state `s`: idle, the Undefined trap, or one instruction. -/
inductive StepEffect (s : State) : State → Prop
  | idle (halted : s.run = .halted) (low : s.irqPending = false) : StepEffect s (idle s)
  | undefined (d : BusContents) (awake : s.run = .halted → s.irqPending = true) (mem : d.mem = s.mem) :
      StepEffect s (raiseUndefined (fetched s d))
  | instruction (d : BusContents) (awake : s.run = .halted → s.irqPending = true) (mem : d.mem = s.mem) (w : Word)
      (i : Instr) (t : State)
      (fetch : fetch (busOf s.cfg) { s with run := .running } = .ok (w, fetched s d)) (decode : decodeWord w = .ok i)
      (effect : Effect (fetched s d) i t) : StepEffect s t

theorem stepEffect_of_step (s t : State) (h : step s = .next t) : StepEffect s t := by
  rcases step_eq_next s t h with ⟨halted, low, rfl⟩ | ⟨awake, w, u, fetch, ran⟩
  · exact .idle halted low
  · obtain ⟨d, -, rfl⟩ := (fetch_eq_ok _ _ _ _).1 fetch
    have mem : d.mem = s.mem := memRead_mem s.cfg .fetch s.pc w { s with run := .running } _ fetch
    have high : s.run = .halted → s.irqPending = true := fun halted =>
      awake.elim (fun running => nomatch halted.symm.trans running) And.right
    rcases ran with ⟨-, rfl⟩ | ⟨i, decode, ran⟩
    · exact .undefined d high mem
    · exact .instruction d high mem w i t fetch decode (effect_of_exec i _ t ran)

/-! The invariant -/

/-- What the invariant says of the status word (R31, R33). -/
def StatusOk (p : Word) : Prop := (Mode.ofBits (modeField p)).isSome = true ∧ reservedClear p

/-- It speaks of bits 4 to 0 and 27 to 8 alone. -/
theorem StatusOk.congr {p q : Word} (h : StatusOk p)
    (same : ∀ j, j < 5 ∨ (8 ≤ j ∧ j < 28) → q.getLsbD j = p.getLsbD j) : StatusOk q := by
  obtain ⟨mode, clear⟩ := h
  refine ⟨?_, (reservedClear_iff q).2 fun j hj hj' => ?_⟩
  · rwa [modeField_congr q p fun j hj => same j (.inl hj)]
  · rw [same j (.inr ⟨hj, hj'⟩), (reservedClear_iff p).1 clear j hj hj']

theorem StatusOk.withNZCV {p : Word} (h : StatusOk p) (o : AluOut) : StatusOk (withNZCV p o) :=
  h.congr fun j hj => by
    rw [getLsbD_withNZCV, if_neg (by omega), if_neg (by omega), if_neg (by omega), if_neg (by omega)]

theorem StatusOk.withNZ {p : Word} (h : StatusOk p) (v : Word) : StatusOk (withNZ p v) :=
  h.congr fun j hj => by rw [getLsbD_withNZ, if_neg (by omega), if_neg (by omega)]

theorem StatusOk.withT {p : Word} (h : StatusOk p) (b : Bool) : StatusOk (withBit p 5 b) :=
  h.congr fun j hj => by rw [getLsbD_withBit _ _ _ _ (by decide), if_neg (by omega)]

theorem StatusOk.trap {p : Word} (h : StatusOk p) (m : Mode) : StatusOk (withBit (withModeField p m.bits) 7 true) := by
  obtain ⟨modeBits, otherBits⟩ := StepAndCondition.trapStatus_bits p m
  refine ⟨by rw [modeBits, Mode.ofBits_bits]; rfl, (reservedClear_iff _).2 fun j hj hj' => ?_⟩
  rw [otherBits j (by omega), if_neg (by omega), (reservedClear_iff p).1 h.2 j hj hj']

/-- A new mode field that is implemented, or the old one. -/
theorem StatusOk.msr {p q v : Word} (h : StatusOk p) {flags field : Prop} [Decidable flags] [Decidable field]
    (implemented : field → ∃ m', Mode.ofBits (modeField v) = some m')
    (bits : ∀ j, q.getLsbD j = if 28 ≤ j ∧ flags then v.getLsbD j
      else if j < 5 ∧ field then v.getLsbD j else p.getLsbD j) : StatusOk q := by
  by_cases hf : field
  · obtain ⟨m', hm'⟩ := implemented hf
    refine ⟨?_, (reservedClear_iff q).2 fun j hj hj' => ?_⟩
    · rw [modeField_congr q v fun j hj => by rw [bits, if_neg (by omega), if_pos ⟨hj, hf⟩], hm']
      rfl
    · rw [bits, if_neg (by omega), if_neg (by omega), (reservedClear_iff p).1 h.2 j hj hj']
  · exact h.congr fun j hj => by rw [bits, if_neg (by omega), if_neg (fun g => hf g.2)]

theorem status_of_inv {s : State} (h : Inv s) : StatusOk s.cpsr := ⟨h.mode, h.cpsrClear⟩

theorem savedStatus_of_inv {s : State} (h : Inv s) {m m' : Mode} {p : Word} (saved : s.spsr m = some p)
    (implemented : Mode.ofBits (modeField p) = some m') : StatusOk p := by
  refine ⟨by rw [implemented]; rfl, ?_⟩
  cases m <;> cases saved
  · exact h.spsrSvcClear
  · exact h.spsrUndClear

theorem status_of_effect (i : Instr) (s t : State) (inv : Inv s) (e : Effect s i t) : StatusOk t.cpsr := by
  have status := status_of_inv inv
  cases e
  case dataProc op c sf rn rd o m v mode =>
    rw [dataProcCommit_cpsr]
    split
    · exact status.withNZCV v
    · exact status
  case movsPc saved implemented => exact savedStatus_of_inv inv saved implemented
  case bx v bit => exact status.withT bit
  case mul sf m v mode =>
    rw [multiplyCommit_cpsr]
    split
    · exact status.withNZ v
    · exact status
  case mla sf m v mode =>
    rw [multiplyCommit_cpsr]
    split
    · exact status.withNZ v
    · exact status
  case msr implemented bits => exact status.msr (fun ⟨c, privileged⟩ => implemented c privileged) bits
  case swi => exact status.trap .supervisor
  all_goals simpa using status

/-! The rest of the state after an instruction -/

section
variable {i : Instr} {s t : State} (e : Effect s i t)
include e

theorem Effect.cfg_eq : t.cfg = s.cfg := by
  cases e <;> simp [raiseSoftwareInterrupt]

/-- Only SWI writes an SPSR, and only the Supervisor one (R39). -/
theorem Effect.spsr_cases : (t.spsrSvc = s.spsrSvc ∧ t.spsrUnd = s.spsrUnd) ∨
    (t.spsrSvc = s.cpsr ∧ t.spsrUnd = s.spsrUnd ∧ t.out.record = some (exceptionRecord .softwareInterrupt s)) := by
  cases e
  case swi => exact .inr ⟨rfl, rfl, rfl⟩
  all_goals simp

/-- Only MCR writes the bank, at a listed identifier (R40). -/
theorem Effect.cp15_cases : t.cp15 = s.cp15 ∨ ∃ c id rd v reset, i = .mcr c id rd ∧
    cellGet (cp15Number id) s.cfg.cp15 = some reset ∧ t.cp15 = cellSet (cp15Number id) v s.cp15 := by
  cases e
  case mcr c id rd v reset listed => exact .inr ⟨c, id, rd, v, reset, rfl, listed, rfl⟩
  all_goals simp [raiseSoftwareInterrupt]

/-- Only LDR and STR change what stands behind the bus, each by its own access (R62). -/
theorem Effect.contents_cases : t.contents = s.contents ∨
    (∃ ix c up rn rd off a v, i = Instr.memXfer true ix c up rn rd off ∧
      memRead (busOf s.cfg) .load a s = .ok (v, s.withContents t.contents)) ∨
    (∃ ix c up rn rd off a v, i = Instr.memXfer false ix c up rn rd off ∧
      memWrite (busOf s.cfg) a v s = .ok (s.withContents t.contents)) := by
  cases e
  case load ix c up rn rd off m a v b d mode read =>
    exact .inr (.inl ⟨ix, c, up, rn, rd, off, a, v, rfl, by simpa [State.contents] using read⟩)
  case store ix c up rn rd off m a v b d mode write =>
    exact .inr (.inr ⟨ix, c, up, rn, rd, off, a, v, rfl, by simpa [State.contents] using write⟩)
  all_goals simp [raiseSoftwareInterrupt, State.contents]

/-- Only a WFI that passes its condition changes the run state (R42). -/
theorem Effect.run_cases : t.run = s.run ∨ ∃ c, i = .wfi c ∧ conditionPassed c s.cpsr = true := by
  cases e
  case wfi c passed => exact .inr ⟨c, rfl, passed⟩
  all_goals simp [raiseSoftwareInterrupt]

end

/-- A listed identifier is a key of the bank already, so the write adds none (R40). -/
theorem bank_of_effect (i : Instr) (s t : State) (inv : Inv s) (e : Effect s i t) : bankOk t := by
  rw [bankOk, e.cfg_eq]
  rcases e.cp15_cases with kept | ⟨c, id, rd, v, reset, -, listed, written⟩
  · rw [kept]
    exact inv.bank
  · obtain ⟨-, -, -, rise, -⟩ := inv.config
    have rises : keysRise s.cp15 := by
      rw [keysRise, ← List.pairwise_map, inv.bank, List.pairwise_map]
      exact rise
    have isListed : (cellGet (cp15Number id) s.cp15).isSome = true := by
      rw [cellGet_isSome_iff, inv.bank, ← cellGet_isSome_iff, listed]
      rfl
    obtain ⟨old, hold⟩ := Option.isSome_iff_exists.1 isListed
    rw [written, keys_cellSet_of_listed _ _ _ _ rises hold]
    exact inv.bank

theorem memory_of_effect (i : Instr) (s t : State) (inv : Inv s) (e : Effect s i t) : Memory.wf t.mem := by
  rcases e.contents_cases with kept | ⟨ix, c, up, rn, rd, off, a, v, -, read⟩ |
    ⟨ix, c, up, rn, rd, off, a, v, -, write⟩
  · have same : t.mem = s.mem := congrArg BusContents.mem kept
    rw [same]
    exact inv.memory
  · have same : t.mem = s.mem := memRead_mem _ _ _ _ _ (s.withContents t.contents) read
    rw [same]
    exact inv.memory
  · exact memWrite_wf _ _ _ _ (s.withContents t.contents) write inv.memory

theorem inv_of_effect (i : Instr) (s t : State) (inv : Inv s) (e : Effect s i t) : Inv t := by
  obtain ⟨mode, cpsrClear⟩ := status_of_effect i s t inv e
  have bank := bank_of_effect i s t inv e
  have memory := memory_of_effect i s t inv e
  have config : configOk t.cfg := by rw [e.cfg_eq]; exact inv.config
  rcases e.spsr_cases with ⟨svc, und⟩ | ⟨svc, und, -⟩
  · exact ⟨mode, cpsrClear, by rw [svc]; exact inv.spsrSvcClear, by rw [und]; exact inv.spsrUndClear,
      memory, bank, config⟩
  · exact ⟨mode, cpsrClear, by rw [svc]; exact inv.cpsrClear, by rw [und]; exact inv.spsrUndClear,
      memory, bank, config⟩

theorem inv_fetched (s : State) (d : BusContents) (mem : d.mem = s.mem) (inv : Inv s) : Inv (fetched s d) := by
  have memory : Memory.wf d.mem := by rw [mem]; exact inv.memory
  exact ⟨inv.mode, inv.cpsrClear, inv.spsrSvcClear, inv.spsrUndClear, memory, inv.bank, inv.config⟩

theorem inv_raiseUndefined (s : State) (inv : Inv s) : Inv (raiseUndefined s) := by
  obtain ⟨mode, cpsrClear⟩ := (status_of_inv inv).trap .undefined
  exact ⟨mode, cpsrClear, inv.spsrSvcClear, inv.cpsrClear, inv.memory, inv.bank, inv.config⟩

theorem inv_idle (s : State) (inv : Inv s) : Inv (idle s) :=
  ⟨inv.mode, inv.cpsrClear, inv.spsrSvcClear, inv.spsrUndClear, inv.memory, inv.bank, inv.config⟩

/-- Settles O45: the idle step changes the returned output alone; otherwise the fetch keeps the invariant, and
after it the Undefined trap and every instruction do. -/
theorem stepKeepsInvariant : Obligations.StepKeepsInvariant := by
  intro s t inv ran
  cases stepEffect_of_step s t ran
  case idle => exact inv_idle s inv
  case undefined d awake mem => exact inv_raiseUndefined _ (inv_fetched s d mem inv)
  case instruction d awake mem w i fetch decode effect => exact inv_of_effect i _ t (inv_fetched s d mem inv) effect

theorem configOk_default : configOk Config.default := by decide

theorem inv_resetWith (cfg : Config) (d : ResetDraw) (c : BusContents) (irq : Bool) (config : configOk cfg)
    (draw : drawOk d) (memory : Memory.wf c.mem) : Inv (State.resetWith cfg d c irq) := by
  have ⟨_, _, _, _, _, _, _, _, mode, clear, _⟩ := config
  have ⟨svc, und⟩ := draw
  exact ⟨mode, clear, svc, und, memory, rfl, config⟩

/-- Settles O46: reset puts the parameters' own values, and the values it draws have clear reserved bits. -/
theorem resetSatisfiesInvariant : Obligations.ResetSatisfiesInvariant :=
  ⟨inv_resetWith _ _ _ _ configOk_default (by decide) (by decide),
    fun s d config draw memory => inv_resetWith s.cfg d s.contents s.irqPending config draw memory⟩

end Sys2Proof.WholeMachine

/-! What no step, or no other instruction, may touch (10_state.md sections 2 to 7, 60_exceptions.md sections 1, 4
and 6): each statement reads off `StepEffect` or `Effect`. -/

namespace Sys2Proof.WholeMachine
open Sys2Proof.Machine Sys2Proof.Spec

/-! Who leaves User mode -/

theorem modeField_withNZCV (p : Word) (o : AluOut) : modeField (withNZCV p o) = modeField p :=
  modeField_congr _ _ fun j hj => by
    rw [getLsbD_withNZCV, if_neg (by omega), if_neg (by omega), if_neg (by omega), if_neg (by omega)]

theorem modeField_withNZ (p v : Word) : modeField (withNZ p v) = modeField p :=
  modeField_congr _ _ fun j hj => by rw [getLsbD_withNZ, if_neg (by omega), if_neg (by omega)]

theorem mode_enterTrap (k : TrapKind) (s : State) : (enterTrap k s).mode = some k.targetMode := by
  obtain ⟨modeBits, -⟩ := StepAndCondition.trapStatus_bits s.cpsr k.targetMode
  rw [State.mode, enterTrap_cpsr, modeBits, Mode.ofBits_bits]

/-- In User mode an instruction keeps the mode and returns no record, or is an SWI that takes its trap. -/
theorem user_of_effect (i : Instr) (s t : State) (user : s.mode = some .user) (e : Effect s i t) :
    (t.out.record = none ∧ t.mode = some .user) ∨
    (t.out.record = some (exceptionRecord .softwareInterrupt s) ∧ t.mode = some .supervisor) := by
  have keep (kept : modeField t.cpsr = modeField s.cpsr) : t.mode = some .user :=
    (mode_eq_of_low s t kept).trans user
  cases e
  case swi => exact .inr ⟨rfl, mode_enterTrap .softwareInterrupt s⟩
  case movsPc m _ _ _ mode privileged _ _ =>
    obtain rfl : m = .user := Option.some.inj (mode.symm.trans user)
    cases privileged
  all_goals refine .inl ⟨by simp [okOutput], keep ?_⟩
  case dataProc =>
    rw [dataProcCommit_cpsr]
    split
    · exact modeField_withNZCV _ _
    · rfl
  case mul =>
    rw [multiplyCommit_cpsr]
    split
    · exact modeField_withNZ _ _
    · rfl
  case mla =>
    rw [multiplyCommit_cpsr]
    split
    · exact modeField_withNZ _ _
    · rfl
  case bx => exact modeField_withBit _ 5 _ (by decide) (by decide)
  case msr m v p mode implemented bits =>
    obtain rfl : m = .user := Option.some.inj (mode.symm.trans user)
    exact modeField_congr _ _ fun j hj => (bits j).trans <| by
      rw [if_neg (by omega), if_neg (fun g => nomatch g.2.2)]
  all_goals simp

/-- Settles O47: the Undefined trap enters Undefined mode, and of the instructions only SWI leaves User mode. -/
theorem userModeLeftOnlyByTrap : Obligations.UserModeLeftOnlyByTrap := by
  intro s t user ran
  cases stepEffect_of_step s t ran
  case idle => exact .inl ⟨rfl, user⟩
  case undefined d awake mem => exact .inr ⟨_, rfl, mode_enterTrap .undefined _, (by decide : Mode.undefined ≠ .user)⟩
  case instruction d awake mem w i fetch decode effect =>
    rcases user_of_effect i (fetched s d) t user effect with kept | ⟨record, mode⟩
    · exact .inl kept
    · exact .inr ⟨_, record, mode, (by decide : Mode.supervisor ≠ .user)⟩

/-! Banked registers of the other modes -/

section
variable {m m' : Mode} (other : m' ≠ m)
include other

theorem writeDest_banks_of_ne (s : State) (rd : Reg) (v : Word) :
    (s.writeDest m rd v).r13.get m' = s.r13.get m' ∧ (s.writeDest m rd v).r14.get m' = s.r14.get m' := by
  unfold State.writeDest
  split
  · exact ⟨rfl, rfl⟩
  · exact writeReg_banks_of_ne s m m' rd v other

theorem writeBack_banks_of_ne (s : State) (ix : Index) (rn : Reg) (v : Word) :
    (s.writeBack m ix rn v).r13.get m' = s.r13.get m' ∧ (s.writeBack m ix rn v).r14.get m' = s.r14.get m' := by
  unfold State.writeBack
  split
  · exact writeReg_banks_of_ne s m m' rn v other
  · exact ⟨rfl, rfl⟩

theorem dataProcCommit_banks_of_ne (op : DpOp) (sf : Bool) (rd : Reg) (o : AluOut) (s : State) :
    (dataProcCommit op sf m rd o s).r13.get m' = s.r13.get m' ∧
    (dataProcCommit op sf m rd o s).r14.get m' = s.r14.get m' := by
  unfold dataProcCommit
  cases op.isTest
  case false => cases sf <;> exact writeDest_banks_of_ne other _ rd o.result
  case true => cases sf <;> exact ⟨rfl, rfl⟩

theorem multiplyCommit_banks_of_ne (sf : Bool) (rd : Reg) (v : Word) (s : State) :
    (multiplyCommit sf m rd v s).r13.get m' = s.r13.get m' ∧
    (multiplyCommit sf m rd v s).r14.get m' = s.r14.get m' := by
  unfold multiplyCommit
  cases sf
  all_goals exact writeDest_banks_of_ne other _ rd v

/-- An instruction in mode `m` keeps the other modes' r13 and r14 (R24), but for the return address of a trap. -/
theorem banks_of_effect (i : Instr) (s t : State) (current : s.mode = some m) (e : Effect s i t) :
    t.r13.get m' = s.r13.get m' ∧ (t.r14.get m' = s.r14.get m' ∨
      ∃ r, t.out.record = some r ∧ r.targetMode = m' ∧ t.r14.get m' = r.returnAddress) := by
  have same {m₁ : Mode} (mode : s.mode = some m₁) : m' ≠ m₁ := by
    rw [Option.some.inj (mode.symm.trans current)]
    exact other
  have kept (h : t.r13.get m' = s.r13.get m' ∧ t.r14.get m' = s.r14.get m') :
    t.r13.get m' = s.r13.get m' ∧ (t.r14.get m' = s.r14.get m' ∨
      ∃ r, t.out.record = some r ∧ r.targetMode = m' ∧ t.r14.get m' = r.returnAddress) := ⟨h.1, .inl h.2⟩
  cases e
  case swi c n =>
    refine ⟨rfl, ?_⟩
    by_cases target : m' = .supervisor
    · subst target
      exact .inr ⟨_, rfl, rfl, rfl⟩
    · exact .inl (Banked.get_set_of_ne _ _ _ _ target)
  case dataProc mode => exact kept (dataProcCommit_banks_of_ne (same mode) _ _ _ _ _)
  case load d mode read =>
    obtain ⟨r13, r14⟩ := writeDest_banks_of_ne (same mode) _ _ _
    obtain ⟨r13', r14'⟩ := writeBack_banks_of_ne (same mode) _ _ _ _
    exact kept ⟨r13.trans r13', r14.trans r14'⟩
  case store mode write => exact kept (writeBack_banks_of_ne (same mode) _ _ _ _)
  case bl mode => exact kept (writeReg_banks_of_ne _ _ _ _ _ (same mode))
  case mul mode => exact kept (multiplyCommit_banks_of_ne (same mode) _ _ _ _)
  case mla mode => exact kept (multiplyCommit_banks_of_ne (same mode) _ _ _ _)
  case mrs mode => exact kept (writeDest_banks_of_ne (same mode) _ _ _)
  case mrc mode => exact kept (writeDest_banks_of_ne (same mode) _ _ _)
  all_goals exact kept ⟨rfl, rfl⟩

end

/-- Settles O48: idle steps touch no bank, the Undefined trap its own r14 alone, and instructions those of their
mode and a trap's. -/
theorem banksOfOtherModesKept : Obligations.BanksOfOtherModesKept := by
  intro s t m m' mode other ran
  cases stepEffect_of_step s t ran
  case idle => exact ⟨rfl, .inl rfl⟩
  case undefined d awake mem =>
    refine ⟨rfl, ?_⟩
    by_cases target : m' = .undefined
    · subst target
      exact .inr ⟨_, rfl, rfl, rfl⟩
    · exact .inl (Banked.get_set_of_ne _ _ _ _ target)
  case instruction d awake mem w i fetch decode effect =>
    exact banks_of_effect other i (fetched s d) t mode effect

/-- Settles O49: each trap writes the SPSR of its target, and no instruction but SWI takes one. -/
theorem spsrWrittenOnlyByTrapEntry : Obligations.SpsrWrittenOnlyByTrapEntry := by
  intro s t ran
  cases stepEffect_of_step s t ran
  case idle => exact ⟨.inl rfl, .inl rfl⟩
  case undefined d awake mem => exact ⟨.inl rfl, .inr ⟨_, rfl, rfl, rfl⟩⟩
  case instruction d awake mem w i fetch decode effect =>
    rcases effect.spsr_cases with ⟨svc, und⟩ | ⟨svc, und, record⟩
    · exact ⟨.inl svc, .inl und⟩
    · exact ⟨.inr ⟨_, record, rfl, svc⟩, .inl und⟩

/-- Settles O50: by `Effect.cp15_cases`. -/
theorem bankMutatedOnlyByMcr : Obligations.BankMutatedOnlyByMcr := by
  intro i s t ran notMcr
  rcases (effect_of_exec i s t ran).cp15_cases with kept | ⟨c, id, rd, v, reset, mcr, -⟩
  · exact kept
  · exact absurd mcr (notMcr c id rd)

/-- Settles O51: by `Effect.contents_cases`; the read of an LDR leaves the reference bus's bytes. -/
theorem memoryChangedOnlyByStore : Obligations.MemoryChangedOnlyByStore := by
  intro i s t ran notStore
  rcases (effect_of_exec i s t ran).contents_cases with kept | ⟨ix, c, up, rn, rd, off, a, v, load, read⟩ |
    ⟨ix, c, up, rn, rd, off, a, v, store, -⟩
  · exact ⟨congrArg BusContents.mem kept, fun _ => kept⟩
  · exact ⟨memRead_mem _ _ _ _ _ (s.withContents t.contents) read,
      fun notLoad => absurd load (notLoad ix c up rn rd off)⟩
  · exact absurd store (notStore ix c up rn rd off)

/-! Bits of the status word -/

theorem bits_congr (p q : Word) (lo len : Nat) (h : ∀ k, k < len → p.getLsbD (lo + k) = q.getLsbD (lo + k)) :
    bits p lo len = bits q lo len := by
  refine congrArg BitVec.toNat (BitVec.eq_of_getLsbD_eq fun k hk => ?_)
  rw [BitVec.getLsbD_extractLsb', BitVec.getLsbD_extractLsb', h k hk]

theorem trapStatus_getLsbD (p : Word) (m : Mode) (j : Nat) (h5 : 5 ≤ j) (h7 : j ≠ 7) :
    (withBit (withModeField p m.bits) 7 true).getLsbD j = p.getLsbD j := by
  obtain ⟨-, otherBits⟩ := StepAndCondition.trapStatus_bits p m
  rw [otherBits j h5, if_neg h7]

/-- Settles O52: the instructions left write bit 5 (BX), bits 7 and 4 to 0 (SWI), or no status bit. -/
theorem flagsKeptByOtherInstructions : Obligations.FlagsKeptByOtherInstructions := by
  intro i s t ran notDataProc notMul notMla notMsr
  cases effect_of_exec i s t ran
  case dataProc op c sf rn rd o m v mode =>
    cases setsFlags : sf || op.isTest
    case false => rw [dataProcCommit_cpsr]; rfl
    case true =>
      refine absurd ?_ (notDataProc op c rn rd o)
      rw [← RoundTrip.dataProc_or_isTest, setsFlags]
  case movsPc c rn o _ _ _ _ _ _ _ _ => exact absurd rfl (notDataProc .mov c rn 15 o)
  case mul c sf rd rn rs rm m v mode =>
    cases sf
    case false => rw [multiplyCommit_cpsr]; rfl
    case true => exact absurd rfl (notMul c rd rn rs rm)
  case mla c sf rd rn rs rm m v mode =>
    cases sf
    case false => rw [multiplyCommit_cpsr]; rfl
    case true => exact absurd rfl (notMla c rd rn rs rm)
  case msr c mask rm _ _ _ _ _ _ => exact absurd rfl (notMsr c mask rm)
  case bx =>
    refine bits_congr _ _ _ _ fun k hk => ?_
    exact (getLsbD_withBit _ _ _ _ (by decide)).trans (if_neg (by omega))
  case swi => exact bits_congr _ _ _ _ fun k hk => trapStatus_getLsbD s.cpsr .supervisor _ (by omega) (by omega)
  all_goals simp

/-- Below the flags, data processing, multiplies and MSR write the mode field alone. -/
theorem maskBits_of_effect (i : Instr) (s t : State) (e : Effect s i t) (j : Nat) (h5 : 5 ≤ j) (h8 : j < 8)
    (notBx : ∀ c rm, i ≠ .bx c rm) (notSwi : ∀ c n, i ≠ .swi c n)
    (notReturn : ∀ c rn o, i ≠ Instr.dataProc .mov c true rn 15 o) : t.cpsr.getLsbD j = s.cpsr.getLsbD j := by
  cases e
  case dataProc op c sf rn rd o m v mode =>
    rw [dataProcCommit_cpsr]
    split
    · rw [getLsbD_withNZCV, if_neg (by omega), if_neg (by omega), if_neg (by omega), if_neg (by omega)]
    · rfl
  case movsPc c rn o _ _ _ _ _ _ _ _ => exact absurd rfl (notReturn c rn o)
  case mul =>
    rw [multiplyCommit_cpsr]
    split
    · rw [getLsbD_withNZ, if_neg (by omega), if_neg (by omega)]
    · rfl
  case mla =>
    rw [multiplyCommit_cpsr]
    split
    · rw [getLsbD_withNZ, if_neg (by omega), if_neg (by omega)]
    · rfl
  case msr m v p mode implemented bits =>
    exact (bits j).trans (by rw [if_neg (by omega), if_neg (by omega)])
  case bx c rm _ _ => exact absurd rfl (notBx c rm)
  case swi c n => exact absurd rfl (notSwi c n)
  all_goals simp

/-- Settles O53: outside BX and SWI by `maskBits_of_effect`; BX writes bit 5 alone, and the entry of SWI keeps
every bit above the mode but I, which it sets. -/
theorem maskBitWriters : Obligations.MaskBitWriters := by
  intro i s t ran notReturn
  by_cases bx : ∃ c rm, i = .bx c rm
  · obtain ⟨c, rm, rfl⟩ := bx
    have keep (j : Nat) (hj : j ≠ 5) : t.cpsr.getLsbD j = s.cpsr.getLsbD j := by
      rcases execBx_eq_next c rm s t ran with ⟨-, rfl⟩ | ⟨-, m, -, rfl⟩
      · rfl
      · exact (getLsbD_withBit _ _ _ _ (by decide)).trans (if_neg hj)
    exact ⟨keep 6 (by decide), .inr ⟨c, rm, rfl⟩, .inl (keep 7 (by decide))⟩
  by_cases swi : ∃ c n, i = .swi c n
  · obtain ⟨c, n, rfl⟩ := swi
    rcases execSwi_eq_next c n s t ran with ⟨-, rfl⟩ | ⟨-, rfl⟩
    · exact ⟨rfl, .inl rfl, .inl rfl⟩
    · have keep (j : Nat) (h5 : 5 ≤ j) (h7 : j ≠ 7) := trapStatus_getLsbD s.cpsr .supervisor j h5 h7
      have set : (raiseSoftwareInterrupt n s).cpsr.getLsbD 7 = true :=
        (getLsbD_withBit _ _ _ _ (by decide)).trans (if_pos rfl)
      exact ⟨keep 6 (by decide) (by decide), .inl (keep 5 (by decide) (by decide)), .inr ⟨rfl, set⟩⟩
  have keep (j : Nat) (h5 : 5 ≤ j) (h8 : j < 8) : t.cpsr.getLsbD j = s.cpsr.getLsbD j :=
    maskBits_of_effect i s t (effect_of_exec i s t ran) j h5 h8 (fun c rm h => bx ⟨c, rm, h⟩)
      (fun c n h => swi ⟨c, n, h⟩) notReturn
  exact ⟨keep 6 (by decide) (by decide), .inl (keep 5 (by decide) (by decide)),
    .inl (keep 7 (by decide) (by decide))⟩

/-! The program counter -/

theorem writeDest_pc_of_ne (s : State) (m : Mode) (rd : Reg) (v : Word) (h : rd ≠ 15) :
    (s.writeDest m rd v).pc = s.pc + 4#32 := by
  rw [writeDest_of_ne s m rd v h, State.advance_pc, writeReg_pc s m rd v h]

theorem dataProcCommit_pc (op : DpOp) (sf : Bool) (m : Mode) (rd : Reg) (o : AluOut) (s : State)
    (h : op.isTest = false → rd ≠ 15) : (dataProcCommit op sf m rd o s).pc = s.pc + 4#32 := by
  unfold dataProcCommit
  cases test : op.isTest
  case false => cases sf <;> exact writeDest_pc_of_ne _ m rd o.result (h test)
  case true => cases sf <;> rfl

theorem multiplyCommit_pc (sf : Bool) (m : Mode) (rd : Reg) (v : Word) (s : State) (h : rd ≠ 15) :
    (multiplyCommit sf m rd v s).pc = s.pc + 4#32 := by
  unfold multiplyCommit
  cases sf
  all_goals exact writeDest_pc_of_ne _ m rd v h

/-- Settles O54: the destinations that R119 rules out, and those that the statement leaves out, are the only
ways to r15. -/
theorem pcAdvancesUnlessRedirected : Obligations.PcAdvancesUnlessRedirected := by
  intro i s t wf ran notB notBl notBx notSwi notDataProc notLoad
  cases effect_of_exec i s t ran
  case skipped => rfl
  case dataProc op c sf rn rd o m v mode =>
    refine dataProcCommit_pc _ _ _ _ _ _ fun writes pc => ?_
    subst pc
    exact notDataProc op c sf rn o writes rfl
  case movsPc c rn o _ _ _ _ _ _ _ _ => exact absurd rfl (notDataProc .mov c true rn o rfl)
  case load ix c up rn rd off m a v b d mode read =>
    have dest : rd ≠ 15 := fun pc => notLoad ix c up rn off (by rw [pc])
    rw [State.completed_pc, writeDest_pc_of_ne _ _ _ _ dest,
      LoadStore.writeBack_pc _ _ _ _ _ (LoadStore.base_ne_fifteen _ _ _ _ _ _ _ wf), State.withContents_pc]
  case store ix c up rn rd off m a v b d mode write =>
    rw [State.completed_pc, State.advance_pc,
      LoadStore.writeBack_pc _ _ _ _ _ (LoadStore.base_ne_fifteen _ _ _ _ _ _ _ wf), State.withContents_pc]
  case b c n => exact absurd rfl (notB c n)
  case bl c n _ _ => exact absurd rfl (notBl c n)
  case bx c rm _ _ => exact absurd rfl (notBx c rm)
  case mul =>
    simp only [Instr.wf, Bool.and_eq_true, bne_iff_ne] at wf
    obtain ⟨⟨dest, -⟩, -⟩ := wf
    exact multiplyCommit_pc _ _ _ _ _ dest
  case mla =>
    simp only [Instr.wf, Bool.and_eq_true, bne_iff_ne] at wf
    obtain ⟨⟨⟨dest, -⟩, -⟩, -⟩ := wf
    exact multiplyCommit_pc _ _ _ _ _ dest
  case mrs => exact writeDest_pc_of_ne _ _ _ _ (bne_iff_ne.1 wf)
  case msr => rfl
  case swi c n => exact absurd rfl (notSwi c n)
  case wfi => rfl
  case mrc => exact writeDest_pc_of_ne _ _ _ _ (bne_iff_ne.1 wf)
  case mcr => rfl

/-! The run state -/

theorem running_self (s : State) (h : s.run = .running) : ({ s with run := .running } : State) = s := by
  rw [← h]

/-- Settles O55: a step of a Running core is its instruction, which only a passed WFI ends Halted; a Halted core
that did not idle had its input high. -/
theorem runStateTransitions : Obligations.RunStateTransitions := by
  intro s t ran
  cases stepEffect_of_step s t ran
  case idle halted low =>
    exact ⟨fun running => (nomatch halted.symm.trans running), fun _ running => (nomatch halted.symm.trans running)⟩
  case undefined d awake mem => exact ⟨fun _ halted => (nomatch halted), fun halted _ => awake halted⟩
  case instruction d awake mem w i fetch decode effect =>
    refine ⟨fun running halted => ?_, fun halted _ => awake halted⟩
    rw [running_self s running] at fetch
    rcases effect.run_cases with kept | ⟨c, rfl, passed⟩
    · exact nomatch halted.symm.trans kept
    · exact ⟨w, fetched s d, c, fetch, decode, passed⟩

/-! Faults -/

theorem whenPassed_inMode_eq_fault (c : Cond) (s : State) (body : Mode → Result) (f : Fault)
    (h : whenPassed c s (inMode s body) = .fault f) : conditionPassed c s.cpsr = true ∧
      ((s.mode = none ∧ f = .defect .unbankedMode) ∨ ∃ m, s.mode = some m ∧ body m = .fault f) := by
  rcases whenPassed_cases c s (inMode s body) with ⟨passed, e⟩ | ⟨-, e⟩
  · rw [e, inMode] at h
    refine ⟨passed, ?_⟩
    split at h
    case h_1 m mode => exact .inr ⟨m, mode, h⟩
    case h_2 mode => cases h; exact .inl ⟨mode, rfl⟩
  · rw [e] at h
    cases h

theorem whenPassed_next_ne_fault (c : Cond) (s u : State) (f : Fault) : whenPassed c s (.next u) ≠ .fault f := by
  intro h
  rcases whenPassed_cases c s (.next u) with ⟨-, e⟩ | ⟨-, e⟩
  all_goals
    rw [e] at h
    cases h

theorem spsr_of_privileged (s : State) (m : Mode) (h : m.privileged = true) :
    s.spsr m = some (if m = .supervisor then s.spsrSvc else s.spsrUnd) := by
  cases m
  case user => cases h
  all_goals rfl

/-- Why an instruction that passes its condition faults. -/
inductive FaultCause (s : State) : Instr → Fault → Prop
  | unbanked (i : Instr) (mode : s.mode = none) : FaultCause s i (.defect .unbankedMode)
  | movsPc (c : Cond) (rn : Reg) (o : Operand2) (m : Mode) (mode : s.mode = some m) (privileged : m.privileged = true)
      (unimplemented : Mode.ofBits (modeField (if m = .supervisor then s.spsrSvc else s.spsrUnd)) = none) :
      FaultCause s (Instr.dataProc .mov c true rn 15 o) (.defect .spsrMode)
  | load (ix : Index) (c : Cond) (up : Bool) (rn rd : Reg) (off : BitVec 12) (a : Word) (f : Fault)
      (read : memRead (busOf s.cfg) .load a s = .error f) : FaultCause s (Instr.memXfer true ix c up rn rd off) f
  | store (ix : Index) (c : Cond) (up : Bool) (rn rd : Reg) (off : BitVec 12) (a v : Word) (f : Fault)
      (write : memWrite (busOf s.cfg) a v s = .error f) : FaultCause s (Instr.memXfer false ix c up rn rd off) f
  | mrs (c : Cond) (rd : Reg) (mode : s.mode = some .user) : FaultCause s (.mrs c true rd) (.defect .noSpsr)
  | msr (c : Cond) (mask : BitVec 4) (rm : Reg) (m : Mode) (mode : s.mode = some m) (field : mask.getLsbD 0 = true)
      (privileged : m.privileged = true) (unimplemented : Mode.ofBits (modeField (s.readReg m rm)) = none) :
      FaultCause s (.msr c mask rm) (.defect .msrMode)
  | mrc (c : Cond) (id : Cp15Id) (rd : Reg) : FaultCause s (.mrc c id rd) (.unsupportedCoprocessorRegister id)
  | mcr (c : Cond) (id : Cp15Id) (rd : Reg) : FaultCause s (.mcr c id rd) (.unsupportedCoprocessorRegister id)

theorem faultCause_of_body (i : Instr) (s : State) (f : Fault) (body : Mode → Result)
    (h : whenPassed i.cond s (inMode s body) = .fault f)
    (cause : ∀ m, s.mode = some m → body m = .fault f → FaultCause s i f) :
    conditionPassed i.cond s.cpsr = true ∧ FaultCause s i f := by
  obtain ⟨passed, ⟨mode, rfl⟩ | ⟨m, mode, ran⟩⟩ := whenPassed_inMode_eq_fault _ _ _ _ h
  · exact ⟨passed, .unbanked i mode⟩
  · exact ⟨passed, cause m mode ran⟩

theorem exceptionReturn_eq_fault (m : Mode) (v : Word) (s : State) (f : Fault) (privileged : m.privileged = true)
    (h : exceptionReturn m v s = .fault f) : f = .defect .spsrMode ∧
      Mode.ofBits (modeField (if m = .supervisor then s.spsrSvc else s.spsrUnd)) = none := by
  simp only [exceptionReturn, spsr_of_privileged s m privileged] at h
  split at h
  case h_1 unimplemented => cases h; exact ⟨rfl, unimplemented⟩
  case h_2 => cases h

theorem faultCause_dataProc (op : DpOp) (c : Cond) (sf : Bool) (rn rd : Reg) (o : Operand2) (s : State) (f : Fault)
    (h : exec (Instr.dataProc op c sf rn rd o) s = .fault f) :
    conditionPassed (Instr.dataProc op c sf rn rd o).cond s.cpsr = true ∧
      FaultCause s (Instr.dataProc op c sf rn rd o) f := by
  rw [exec_dataProc, ← Instr.cond_dataProc op c sf rn rd o] at h
  refine faultCause_of_body _ s f _ h fun m mode ran => ?_
  dsimp only at ran
  split at ran
  case isTrue isReturn =>
    obtain ⟨rfl, flags, rfl, privileged⟩ := isReturn
    obtain rfl : sf = true := by simpa [DpOp.isTest] using flags
    obtain ⟨rfl, unimplemented⟩ := exceptionReturn_eq_fault _ _ _ _ privileged ran
    exact .movsPc c rn o m mode privileged unimplemented
  case isFalse => cases ran

theorem faultCause_memXfer (load : Bool) (ix : Index) (c : Cond) (up : Bool) (rn rd : Reg) (off : BitVec 12)
    (s : State) (f : Fault) (h : exec (Instr.memXfer load ix c up rn rd off) s = .fault f) :
    conditionPassed (Instr.memXfer load ix c up rn rd off).cond s.cpsr = true ∧
      FaultCause s (Instr.memXfer load ix c up rn rd off) f := by
  cases load
  case false =>
    rw [exec_store, ← Instr.cond_memXfer false ix c up rn rd off] at h
    refine faultCause_of_body _ s f _ h fun m mode ran => ?_
    dsimp only at ran
    split at ran
    case h_1 write => cases ran; exact .store ix _ up rn rd off _ _ _ write
    case h_2 => cases ran
  case true =>
    rw [exec_load, ← Instr.cond_memXfer true ix c up rn rd off] at h
    refine faultCause_of_body _ s f _ h fun m mode ran => ?_
    dsimp only at ran
    split at ran
    case h_1 read => cases ran; exact .load ix _ up rn rd off _ _ read
    case h_2 => cases ran

theorem faultCause_mrs (c : Cond) (sp : Bool) (rd : Reg) (s : State) (f : Fault)
    (h : exec (.mrs c sp rd) s = .fault f) : conditionPassed c s.cpsr = true ∧ FaultCause s (.mrs c sp rd) f := by
  refine faultCause_of_body (.mrs c sp rd) s f _ h fun m mode ran => ?_
  cases sp
  case false => cases ran
  case true =>
    cases m
    case user => cases ran; exact .mrs c rd mode
    all_goals cases ran

theorem faultCause_msr (c : Cond) (mask : BitVec 4) (rm : Reg) (s : State) (f : Fault)
    (h : exec (.msr c mask rm) s = .fault f) :
    conditionPassed c s.cpsr = true ∧ FaultCause s (.msr c mask rm) f := by
  refine faultCause_of_body (.msr c mask rm) s f _ h fun m mode ran => ?_
  dsimp only at ran
  split at ran
  case isTrue bad =>
    obtain ⟨write, unimplemented⟩ := bad
    obtain ⟨field, privileged⟩ := Bool.and_eq_true_iff.1 write
    cases ran
    exact .msr c mask rm m mode field privileged unimplemented
  case isFalse => cases ran

/-- Every fault of an instruction has its cause, under a passed condition. -/
theorem faultCause_of_exec (i : Instr) (s : State) (f : Fault) (h : exec i s = .fault f) :
    conditionPassed i.cond s.cpsr = true ∧ FaultCause s i f := by
  rcases Instr.shapes i with ⟨op, c, sf, rn, rd, o, rfl⟩ | ⟨load, ix, c, up, rn, rd, off, rfl⟩ |
    ⟨c, n, rfl⟩ | ⟨c, n, rfl⟩ | ⟨c, rm, rfl⟩ | ⟨c, sf, rd, rn, rs, rm, rfl⟩ | ⟨c, sf, rd, rn, rs, rm, rfl⟩ |
    ⟨c, sp, rd, rfl⟩ | ⟨c, mask, rm, rfl⟩ | ⟨c, n, rfl⟩ | ⟨c, rfl⟩ | ⟨c, id, rd, rfl⟩ | ⟨c, id, rd, rfl⟩
  · exact faultCause_dataProc op c sf rn rd o s f h
  · exact faultCause_memXfer load ix c up rn rd off s f h
  · exact absurd h (whenPassed_next_ne_fault c s _ f)
  · exact faultCause_of_body (.bl c n) s f _ h fun m mode ran => nomatch ran
  · exact faultCause_of_body (.bx c rm) s f _ h fun m mode ran => nomatch ran
  · exact faultCause_of_body (.mul c sf rd rn rs rm) s f _ h fun m mode ran => nomatch ran
  · exact faultCause_of_body (.mla c sf rd rn rs rm) s f _ h fun m mode ran => nomatch ran
  · exact faultCause_mrs c sp rd s f h
  · exact faultCause_msr c mask rm s f h
  · exact absurd h (whenPassed_next_ne_fault c s _ f)
  · exact absurd h (whenPassed_next_ne_fault c s _ f)
  · refine faultCause_of_body (.mrc c id rd) s f _ h fun m mode ran => ?_
    split at ran
    case h_1 => cases ran
    case h_2 => cases ran; exact .mrc c id rd
  · refine faultCause_of_body (.mcr c id rd) s f _ h fun m mode ran => ?_
    split at ran
    case h_1 => cases ran
    case h_2 => cases ran; exact .mcr c id rd

/-! The three defects -/

theorem privileged_iff (m : Mode) : m.privileged = true ↔ m ≠ .user := by cases m <;> decide

theorem ofBits_eq_none_iff (b : BitVec 5) : Mode.ofBits b = none ↔ ¬ implementedMode b := by
  unfold Mode.ofBits implementedMode
  split_ifs <;> simp_all

theorem exec_movsPc_of_unimplemented (c : Cond) (rn : Reg) (o : Operand2) (s : State) (m : Mode)
    (passed : conditionPassed c s.cpsr = true) (mode : s.mode = some m) (privileged : m.privileged = true)
    (unimplemented : Mode.ofBits (modeField (if m = .supervisor then s.spsrSvc else s.spsrUnd)) = none) :
    exec (Instr.dataProc .mov c true rn 15 o) s = .fault (.defect .spsrMode) := by
  rw [exec_dataProc, dataProcessing, whenPassed_of_pass _ _ _ passed, inMode_of_mode _ _ _ mode]
  dsimp only
  rw [if_pos ⟨rfl, rfl, rfl, privileged⟩]
  simp only [exceptionReturn, spsr_of_privileged s m privileged, unimplemented]

theorem exec_msr_of_unimplemented (c : Cond) (mask : BitVec 4) (rm : Reg) (s : State) (m : Mode)
    (passed : conditionPassed c s.cpsr = true) (mode : s.mode = some m) (field : mask.getLsbD 0 = true)
    (privileged : m.privileged = true) (unimplemented : Mode.ofBits (modeField (s.readReg m rm)) = none) :
    exec (.msr c mask rm) s = .fault (.defect .msrMode) := by
  rw [exec, execMsr, whenPassed_of_pass _ _ _ passed, inMode_of_mode _ _ _ mode]
  dsimp only
  rw [if_pos ⟨by rw [field, privileged]; rfl, unimplemented⟩]

theorem exec_mrs_spsr_of_user (c : Cond) (rd : Reg) (s : State) (passed : conditionPassed c s.cpsr = true)
    (mode : s.mode = some .user) : exec (.mrs c true rd) s = .fault (.defect .noSpsr) := by
  rw [exec, execMrs, whenPassed_of_pass _ _ _ passed, inMode_of_mode _ _ _ mode]
  rfl

/-- Settles O56: by `FaultCause` there are no other ways in an implemented mode, and each of the three is one. -/
theorem defectsAreExactlyThree : Obligations.DefectsAreExactlyThree := by
  intro i s m r mode
  constructor
  · intro fault
    obtain ⟨passed, cause⟩ := faultCause_of_exec i s _ fault
    refine ⟨passed, ?_⟩
    cases cause
    case unbanked none => exact nomatch mode.symm.trans none
    case movsPc c rn o m' mode' privileged unimplemented =>
      obtain rfl : m' = m := Option.some.inj (mode'.symm.trans mode)
      exact .inr (.inl ⟨c, rn, o, rfl, (privileged_iff m').1 privileged,
        (ofBits_eq_none_iff _).1 unimplemented, rfl⟩)
    case load read => rcases memRead_error _ _ _ _ _ read with e | e <;> cases e
    case store write => cases memWrite_error _ _ _ _ _ write
    case mrs c rd user => exact .inr (.inr ⟨c, rd, rfl, Option.some.inj (mode.symm.trans user), rfl⟩)
    case msr c mask rm m' mode' field privileged unimplemented =>
      obtain rfl : m' = m := Option.some.inj (mode'.symm.trans mode)
      exact .inl ⟨c, mask, rm, rfl, field, (privileged_iff m').1 privileged,
        (ofBits_eq_none_iff _).1 unimplemented, rfl⟩
  · rintro ⟨passed, ⟨c, mask, rm, rfl, field, notUser, bad, rfl⟩ | ⟨c, rn, o, rfl, notUser, bad, rfl⟩ |
      ⟨c, rd, rfl, rfl, rfl⟩⟩
    · exact exec_msr_of_unimplemented c mask rm s m passed mode field ((privileged_iff m).2 notUser)
        ((ofBits_eq_none_iff _).2 bad)
    · rw [Instr.cond_dataProc] at passed
      exact exec_movsPc_of_unimplemented c rn o s m passed mode ((privileged_iff m).2 notUser)
        ((ofBits_eq_none_iff _).2 bad)
    · exact exec_mrs_spsr_of_user c rd s passed mode

/-- Settles O57: the record by `Effect`, the faults by `FaultCause`. -/
theorem eventsComeFromTheirInstructions : Obligations.EventsComeFromTheirInstructions := by
  intro i s
  refine ⟨fun t ran record => ?_, fun k w a fault => ?_, fun id fault => ?_⟩
  · cases effect_of_exec i s t ran
    case swi c n => exact ⟨c, n, rfl⟩
    all_goals simp [okOutput] at record
  · obtain ⟨-, cause⟩ := faultCause_of_exec i s _ fault
    cases cause
    case load ix c up rn rd off a' read =>
      rcases memRead_error _ _ _ _ _ read with e | e
      · cases e; exact ⟨rfl, ix, c, up, rn, rd, off, .inl ⟨rfl, rfl⟩⟩
      · cases e
    case store ix c up rn rd off a' v write =>
      cases memWrite_error _ _ _ _ _ write
      exact ⟨rfl, ix, c, up, rn, rd, off, .inr ⟨rfl, rfl⟩⟩
  · obtain ⟨-, cause⟩ := faultCause_of_exec i s _ fault
    cases cause
    case load read => rcases memRead_error _ _ _ _ _ read with e | e <;> cases e
    case store write => cases memWrite_error _ _ _ _ _ write
    case mrc c rd => exact ⟨c, rd, .inl rfl⟩
    case mcr c rd => exact ⟨c, rd, .inr rfl⟩

end Sys2Proof.WholeMachine

/-! The step around its instruction (40_step_and_condition.md section 1, 60_exceptions.md section 7): the fetch, the
wake, and the interrupt-pending level. -/

namespace Sys2Proof.StepRules
open Sys2Proof.Machine Sys2Proof.Spec Sys2Proof.StepAndCondition

/-! The answers of the chosen bus -/

theorem read32_of_wordRead (s : State) (a v : Word) (c : BusContents) (h : wordRead s a v c) :
    (busOf s.cfg).read32 a s.contents = .value (v, c) := by
  obtain ⟨d, answer, same⟩ := (memRead_eq_ok _ _ _ _ _ _).1 ((memRead_eq_ok_iff_wordRead .fetch s a v c).2 h)
  rw [answer, (withContents_inj s c d).1 same]

theorem read32_of_readRefused (s : State) (a : Word) (h : readRefused s a) :
    (busOf s.cfg).read32 a s.contents = .memoryFault := by
  unfold readRefused at h
  split at h
  case h_1 reference =>
    have refused : busAccepts s.cfg a 4 = false := Bool.eq_false_iff.2 (mt (busAccepts_iff s.cfg a 4).1 h)
    have answer := (referenceRead_eq_memoryFault _ (memWord s.mem a.toNat) s.mem).2 refused
    simp [busOf_reference _ reference, liftBus, referenceBus, answer, mapAnswer]
  case h_2 n platform => simp [busOf_platform _ _ platform, liftBus, h, mapAnswer]

/-- A step that does not idle is the fetch and the instruction, Running. -/
theorem step_of_awake (s : State) (awake : s.run = .running ∨ s.irqPending = true) :
    step s = fetchExecute (busOf s.cfg) exec { s with run := .running } := by
  cases run : s.run
  case running => rw [step_of_running s run, WholeMachine.running_self s run]
  case halted =>
    have high := awake.resolve_left (by rw [run]; decide)
    simp only [step, stepWith, run, high]

/-- Settles O7: the bus's answer decides the fetch, and the word of the fetch decides the instruction. -/
theorem stepRunsDecodedInstruction : Obligations.StepRunsDecodedInstruction := by
  intro s w i c decoded
  refine ⟨fun read => ⟨fun running => ?_, fun _ high => ?_, fun reference => ?_⟩, fun bus answer running => ?_,
    step_eq_stepOn s, (execOn_busOf i s).symm⟩
  · rw [step_of_running s running]
    exact fetchExecute_of_decode _ _ s w c i (read32_of_wordRead s _ w c read) decoded
  · rw [step_of_awake s (.inr high)]
    exact fetchExecute_of_decode _ _ { s with run := .running } w c i (read32_of_wordRead s _ w c read) decoded
  · simp only [wordRead, reference] at read
    obtain ⟨-, -, rfl⟩ := read
    exact State.withContents_self s
  · simp only [stepOn, stepWith, running]
    exact fetchExecute_of_decode _ _ s w c i answer decoded

/-- Settles O12: both are the step of the Running core. -/
theorem wakeRunsInTheSameStep : Obligations.WakeRunsInTheSameStep := by
  intro s _ high
  rw [step_of_awake s (.inr high), step_of_awake { s with run := .running } (.inl rfl)]

/-- Settles O14: a refused read is the whole of the step. -/
theorem fetchFaultStopsStep : Obligations.FetchFaultStopsStep := by
  intro s refused awake
  have fetched : fetch (busOf s.cfg) { s with run := .running } = .error (.memoryFault .fetch 4 s.pc) :=
    memRead_of_memoryFault _ .fetch s.pc _ (read32_of_readRefused s s.pc refused)
  rw [step_of_awake s awake, fetchExecute, fetched]

/-! The interrupt-pending level -/

/-- An outcome with its next state changed. -/
def mapNext (f : State → State) : Result → Result
  | .next s => .next (f s)
  | .fault r => .fault r
  | .refused r => .refused r

section
variable (level : Bool)

theorem writeReg_setIrqPending (s : State) (m : Mode) (i : Reg) (v : Word) :
    (setIrqPending level s).writeReg m i v = setIrqPending level (s.writeReg m i v) := by
  unfold State.writeReg
  split
  · rfl
  · split
    · rfl
    · split <;> rfl

theorem writeDest_setIrqPending (s : State) (m : Mode) (rd : Reg) (v : Word) :
    (setIrqPending level s).writeDest m rd v = setIrqPending level (s.writeDest m rd v) := by
  unfold State.writeDest
  split
  · rfl
  · rw [writeReg_setIrqPending]
    rfl

theorem writeBack_setIrqPending (s : State) (m : Mode) (ix : Index) (rn : Reg) (v : Word) :
    (setIrqPending level s).writeBack m ix rn v = setIrqPending level (s.writeBack m ix rn v) := by
  unfold State.writeBack
  split
  · exact writeReg_setIrqPending level s m rn v
  · rfl

theorem dataProcCommit_setIrqPending (op : DpOp) (sf : Bool) (m : Mode) (rd : Reg) (o : AluOut) (s : State) :
    dataProcCommit op sf m rd o (setIrqPending level s) = setIrqPending level (dataProcCommit op sf m rd o s) := by
  unfold dataProcCommit
  cases op.isTest
  case true => cases sf <;> rfl
  case false =>
    cases sf
    case false => exact congrArg State.completed (writeDest_setIrqPending level s m rd o.result)
    case true =>
      exact congrArg State.completed
        (writeDest_setIrqPending level { s with cpsr := withNZCV s.cpsr o } m rd o.result)

theorem multiplyCommit_setIrqPending (sf : Bool) (m : Mode) (rd : Reg) (v : Word) (s : State) :
    multiplyCommit sf m rd v (setIrqPending level s) = setIrqPending level (multiplyCommit sf m rd v s) := by
  unfold multiplyCommit
  cases sf
  case false => exact congrArg State.completed (writeDest_setIrqPending level s m rd v)
  case true =>
    exact congrArg State.completed (writeDest_setIrqPending level { s with cpsr := withNZ s.cpsr v } m rd v)

theorem memRead_setIrqPending (bus : Bus BusContents) (k : AccessKind) (a : Word) (s : State) :
    memRead bus k a (setIrqPending level s) =
      (memRead bus k a s).map fun x => (x.1, setIrqPending level x.2) := by
  have same : (setIrqPending level s).contents = s.contents := rfl
  unfold memRead
  rw [same]
  cases bus.read32 a s.contents <;> rfl

theorem memWrite_setIrqPending (bus : Bus BusContents) (a v : Word) (s : State) :
    memWrite bus a v (setIrqPending level s) = (memWrite bus a v s).map (setIrqPending level) := by
  have same : (setIrqPending level s).contents = s.contents := rfl
  unfold memWrite
  rw [same]
  cases bus.write32 a v s.contents <;> rfl

/-- A meaning under a condition commutes with the level when its body does. -/
theorem whenPassed_setIrqPending (c : Cond) (s : State) (body body' : Result)
    (h : body' = mapNext (setIrqPending level) body) :
    whenPassed c (setIrqPending level s) body' = mapNext (setIrqPending level) (whenPassed c s body) := by
  rw [h]
  unfold whenPassed
  split
  case isTrue passed => rw [if_pos (show conditionPassed c s.cpsr = true from passed)]
  case isFalse failed =>
    rw [if_neg (show ¬ conditionPassed c s.cpsr = true from failed)]
    rfl

theorem inMode_setIrqPending (s : State) (body body' : Mode → Result)
    (h : ∀ m, body' m = mapNext (setIrqPending level) (body m)) :
    inMode (setIrqPending level s) body' = mapNext (setIrqPending level) (inMode s body) := by
  have mode : (setIrqPending level s).mode = s.mode := rfl
  unfold inMode
  rw [mode]
  cases s.mode
  case none => rfl
  case some m => exact h m

theorem exceptionReturn_setIrqPending (m : Mode) (v : Word) (s : State) :
    exceptionReturn m v (setIrqPending level s) = mapNext (setIrqPending level) (exceptionReturn m v s) := by
  have saved : (setIrqPending level s).spsr m = s.spsr m := by cases m <;> rfl
  unfold exceptionReturn
  rw [saved]
  cases s.spsr m
  case none => rfl
  case some p =>
    dsimp only
    cases Mode.ofBits (modeField p) <;> rfl

theorem dataProcessing_setIrqPending (op : DpOp) (c : Cond) (sf : Bool) (rn rd : Reg) (o : Operand2) (s : State) :
    dataProcessing op c sf rn rd o (setIrqPending level s) =
      mapNext (setIrqPending level) (dataProcessing op c sf rn rd o s) := by
  refine whenPassed_setIrqPending level c s _ _ (inMode_setIrqPending level s _ _ fun m => ?_)
  dsimp only
  split
  case isTrue => exact exceptionReturn_setIrqPending level m _ s
  case isFalse => exact congrArg Host.Outcome.next (dataProcCommit_setIrqPending level op sf m rd _ s)

theorem loadWord_setIrqPending (bus : Bus BusContents) (ix : Index) (c : Cond) (up : Bool) (rn rd : Reg)
    (off : BitVec 12) (s : State) : loadWord bus ix c up rn rd off (setIrqPending level s) =
      mapNext (setIrqPending level) (loadWord bus ix c up rn rd off s) := by
  refine whenPassed_setIrqPending level c s _ _ (inMode_setIrqPending level s _ _ fun m => ?_)
  have base : (setIrqPending level s).readReg m rn = s.readReg m rn := rfl
  dsimp only
  rw [base, memRead_setIrqPending]
  cases memRead bus .load (accessAddress ix (s.readReg m rn) up off) s
  case error => rfl
  case ok x =>
    obtain ⟨v, t⟩ := x
    simp only [Except.map, writeBack_setIrqPending, writeDest_setIrqPending]
    rfl

theorem storeWord_setIrqPending (bus : Bus BusContents) (ix : Index) (c : Cond) (up : Bool) (rn rd : Reg)
    (off : BitVec 12) (s : State) : storeWord bus ix c up rn rd off (setIrqPending level s) =
      mapNext (setIrqPending level) (storeWord bus ix c up rn rd off s) := by
  refine whenPassed_setIrqPending level c s _ _ (inMode_setIrqPending level s _ _ fun m => ?_)
  have base : (setIrqPending level s).readReg m rn = s.readReg m rn := rfl
  have value : (setIrqPending level s).readReg m rd = s.readReg m rd := rfl
  dsimp only
  rw [base, value, memWrite_setIrqPending]
  cases memWrite bus (accessAddress ix (s.readReg m rn) up off) (s.readReg m rd) s
  case error => rfl
  case ok t =>
    simp only [Except.map, writeBack_setIrqPending]
    rfl

/-- No instruction reads or writes the level (R290). -/
theorem exec_setIrqPending (i : Instr) (s : State) :
    exec i (setIrqPending level s) = mapNext (setIrqPending level) (exec i s) := by
  rcases Instr.shapes i with ⟨op, c, sf, rn, rd, o, rfl⟩ | ⟨load, ix, c, up, rn, rd, off, rfl⟩ |
    ⟨c, n, rfl⟩ | ⟨c, n, rfl⟩ | ⟨c, rm, rfl⟩ | ⟨c, sf, rd, rn, rs, rm, rfl⟩ | ⟨c, sf, rd, rn, rs, rm, rfl⟩ |
    ⟨c, sp, rd, rfl⟩ | ⟨c, mask, rm, rfl⟩ | ⟨c, n, rfl⟩ | ⟨c, rfl⟩ | ⟨c, id, rd, rfl⟩ | ⟨c, id, rd, rfl⟩
  · rw [exec_dataProc, exec_dataProc, dataProcessing_setIrqPending]
  · cases load
    case false =>
      rw [exec_store, exec_store]
      exact storeWord_setIrqPending level _ ix c up rn rd off s
    case true =>
      rw [exec_load, exec_load]
      exact loadWord_setIrqPending level _ ix c up rn rd off s
  · exact whenPassed_setIrqPending level c s _ _ rfl
  · exact whenPassed_setIrqPending level c s _ _ (inMode_setIrqPending level s _ _ fun m => rfl)
  · exact whenPassed_setIrqPending level c s _ _ (inMode_setIrqPending level s _ _ fun m => rfl)
  · refine whenPassed_setIrqPending level c s _ _ (inMode_setIrqPending level s _ _ fun m => ?_)
    exact congrArg Host.Outcome.next (multiplyCommit_setIrqPending level sf m rd _ s)
  · refine whenPassed_setIrqPending level c s _ _ (inMode_setIrqPending level s _ _ fun m => ?_)
    exact congrArg Host.Outcome.next (multiplyCommit_setIrqPending level sf m rd _ s)
  · refine whenPassed_setIrqPending level c s _ _ (inMode_setIrqPending level s _ _ fun m => ?_)
    have written (v : Word) : ((setIrqPending level s).writeDest m rd v).completed =
        setIrqPending level (s.writeDest m rd v).completed :=
      congrArg State.completed (writeDest_setIrqPending level s m rd v)
    cases sp
    case false => exact congrArg Host.Outcome.next (written s.cpsr)
    case true =>
      cases m
      case user => rfl
      case supervisor => exact congrArg Host.Outcome.next (written s.spsrSvc)
      case undefined => exact congrArg Host.Outcome.next (written s.spsrUnd)
  · refine whenPassed_setIrqPending level c s _ _ (inMode_setIrqPending level s _ _ fun m => ?_)
    have value : (setIrqPending level s).readReg m rm = s.readReg m rm := rfl
    dsimp only
    rw [value]
    split <;> rfl
  · exact whenPassed_setIrqPending level c s _ _ rfl
  · exact whenPassed_setIrqPending level c s _ _ rfl
  · refine whenPassed_setIrqPending level c s _ _ (inMode_setIrqPending level s _ _ fun m => ?_)
    have value : (setIrqPending level s).readCp15 id = s.readCp15 id := rfl
    rw [value]
    cases s.readCp15 id
    case none => rfl
    case some v =>
      exact congrArg (fun t => Host.Outcome.next (State.completed t)) (writeDest_setIrqPending level s m rd v)
  · refine whenPassed_setIrqPending level c s _ _ (inMode_setIrqPending level s _ _ fun m => ?_)
    have register : (setIrqPending level s).readReg m rd = s.readReg m rd := rfl
    have listed : (setIrqPending level s).cfg = s.cfg := rfl
    rw [register]
    simp only [State.writeCp15, listed]
    cases cellGet (cp15Number id) s.cfg.cp15 <;> rfl

theorem fetchExecute_setIrqPending (s : State) :
    fetchExecute (busOf s.cfg) exec (setIrqPending level s) =
      mapNext (setIrqPending level) (fetchExecute (busOf s.cfg) exec s) := by
  have read : fetch (busOf s.cfg) (setIrqPending level s) =
      (fetch (busOf s.cfg) s).map fun x => (x.1, setIrqPending level x.2) :=
    memRead_setIrqPending level (busOf s.cfg) .fetch s.pc s
  unfold fetchExecute
  rw [read]
  cases fetch (busOf s.cfg) s
  case error => rfl
  case ok x =>
    obtain ⟨w, t⟩ := x
    simp only [Except.map]
    cases decodeWord w
    case error => rfl
    case ok i => exact exec_setIrqPending level i t

end

/-- Settles O13: the step of a Running core commutes with setting the level. -/
theorem runningIgnoresInterruptLevel : Obligations.RunningIgnoresInterruptLevel := by
  intro s level running
  have commutes : step (setIrqPending level s) = mapNext (setIrqPending level) (step s) := by
    rw [step_of_running s running, step_of_running (setIrqPending level s) running]
    exact fetchExecute_setIrqPending level s
  rw [commutes]
  exact ⟨fun t next => by rw [next]; rfl, fun f fault => by rw [fault]; rfl⟩

end Sys2Proof.StepRules

/-! The register view of each mode (10_state.md sections 2 and 3), reset (10_state.md section 8) and the host's
write-back (60_exceptions.md section 9). -/

namespace Sys2Proof.StateRules
open Sys2Proof.Machine Sys2Proof.Spec

/-- In the view of another mode a written register is seen when it is shared, r0 to r12. -/
theorem readReg_writeReg_of_other_mode (s : State) (m m' : Mode) (i : Reg) (v : Word) (hi : i ≠ 15)
    (other : m' ≠ m) : (s.writeReg m i v).readReg m' i = if i.val < 13 then v else s.readReg m' i := by
  split
  case isTrue shared => simp [State.readReg, State.writeReg, shared]
  case isFalse banked =>
    obtain ⟨r13, r14⟩ := writeReg_banks_of_ne s m m' i v other
    unfold State.readReg
    rw [dif_neg banked, dif_neg banked, r13, r14]
    split
    · rfl
    · split
      · rfl
      · rw [writeReg_pc s m i v hi]

/-- Settles O58: the rules of reads after writes in one view and in two; `r15` reads `pc`, which a write of another
register keeps. -/
theorem registerViews : Obligations.RegisterViews := by
  intro s m i v
  refine ⟨readReg_fifteen s m, fun hi => ⟨readReg_writeReg_same s m i v hi, fun j hj => ?_, fun m' other => ?_⟩⟩
  · by_cases pc : j = 15
    · rw [pc, readReg_fifteen, readReg_fifteen, writeReg_pc s m i v hi]
    · exact readReg_writeReg_of_ne s m m i j v pc hj
  · exact readReg_writeReg_of_other_mode s m m' i v hi other

/-- Every register of the default bank has the reset value 0 (R7). -/
theorem cellGet_default_cp15 (k : Nat) (v : Word) (h : cellGet k Config.default.cp15 = some v) : v = 0#32 := by
  simp only [Config.default, cellGet] at h
  split at h
  case isTrue => exact (Option.some.inj h).symm
  case isFalse =>
    split at h
    case isTrue => exact (Option.some.inj h).symm
    case isFalse => cases h

/-- Settles O59: reset is `State.resetWith`, and the default bank holds 0 everywhere. -/
theorem resetPutsTheResetValues : Obligations.ResetPutsTheResetValues := by
  refine ⟨fun d s => rfl, rfl, rfl, rfl, fun id v read => ?_⟩
  have bank : State.reset.cp15 = Config.default.cp15 := rfl
  have cfg : State.reset.cfg = Config.default := rfl
  rw [State.readCp15, cfg, bank] at read
  split at read
  case h_1 reset listed =>
    rw [listed] at read
    exact cellGet_default_cp15 _ v (listed.trans read)
  case h_2 => cases read

/-! The write-back window -/

/-- What the host may write (R297): r0 to r12 and the Supervisor copies of r13 and r14. -/
def HostFrame (s t : State) : Prop :=
  ∃ (r : Vector Word 13) (r13s r14s : Word),
    t = { s with r := r, r13 := { s.r13 with svc := r13s }, r14 := { s.r14 with svc := r14s } }

theorem HostFrame.refl (s : State) : HostFrame s s := ⟨s.r, s.r13.svc, s.r14.svc, rfl⟩

theorem HostFrame.trans {s t u : State} (h : HostFrame s t) (h' : HostFrame t u) : HostFrame s u := by
  obtain ⟨_, _, _, rfl⟩ := h
  obtain ⟨r, r13s, r14s, rfl⟩ := h'
  exact ⟨r, r13s, r14s, rfl⟩

theorem hostFrame_writeRegister (s : State) (reg : HostRegister) (v : Word) :
    HostFrame s (hostWriteRegister s reg v) := by
  cases reg
  case low i => exact ⟨s.r.set i.val v, s.r13.svc, s.r14.svc, rfl⟩
  case r13Svc => exact ⟨s.r, v, s.r14.svc, rfl⟩
  case r14Svc => exact ⟨s.r, s.r13.svc, v, rfl⟩

theorem hostFrame_writes (ws : List (HostRegister × Word)) (s : State) :
    HostFrame s (ws.foldl (fun t w => hostWriteRegister t w.1 w.2) s) := by
  induction ws generalizing s with
  | nil => exact .refl s
  | cons w ws ih => exact (hostFrame_writeRegister s w.1 w.2).trans (ih _)

/-- Settles O60: with the window closed nothing is written, with it open each write keeps to the frame. -/
theorem hostWriteBackWindow : Obligations.HostWriteBackWindow := by
  intro ws s
  constructor
  · intro closed
    simp [hostWriteBack, writeBackOpen, closed]
  · unfold hostWriteBack
    split
    · exact hostFrame_writes ws s
    · exact HostFrame.refl s

end Sys2Proof.StateRules

/-! What a completed instruction leaves alone, for the ends that several instructions share: a destination write,
and the commit of data processing and of multiplies. -/

namespace Sys2Proof.Frames
open Sys2Proof.Machine Sys2Proof.Spec Sys2Proof.WholeMachine

theorem registersKept_writeDest (s : State) (m : Mode) (rd : Reg) (v : Word) :
    RegistersKept m [rd] s (s.writeDest m rd v) := by
  refine ⟨fun i hi other => ?_, fun m' hm' => writeDest_banks_of_ne hm' s rd v⟩
  have ne : i ≠ rd := List.ne_of_not_mem_cons other
  unfold State.writeDest
  split
  · exact readReg_redirect s m i v hi
  · rw [readReg_advance _ _ _ hi, readReg_writeReg_of_ne s m m rd i v hi ne]

theorem readReg_writeDest_same (s : State) (m : Mode) (rd : Reg) (v : Word) (h : rd ≠ 15) :
    (s.writeDest m rd v).readReg m rd = v := by
  rw [writeDest_of_ne s m rd v h, readReg_advance _ _ _ h, readReg_writeReg_same s m rd v h]

theorem memoryKept_of_mem {s t : State} (hm : t.mem = s.mem) (hp : t.platform = s.platform) : MemoryKept s t :=
  ⟨fun a => by rw [memByte, memByte, hm], hp⟩

/-- An instruction that writes one register and goes on: the write, and everything that is kept. -/
theorem writeDest_completed (s : State) (m : Mode) (rd : Reg) (v : Word) (h : rd ≠ 15) :
    let t := (s.writeDest m rd v).completed
    t.readReg m rd = v ∧ t.cpsr = s.cpsr ∧ t.pc = s.pc + 4#32 ∧
      RegistersKept m [rd] s t ∧ MemoryKept s t ∧ SystemKept s t ∧ t.out = okOutput s := by
  refine ⟨readReg_writeDest_same s m rd v h, by simp, writeDest_pc_of_ne s m rd v h,
    registersKept_writeDest s m rd v, memoryKept_of_mem (by simp) (by simp), by simp [SystemKept], by simp [okOutput]⟩

end Sys2Proof.Frames

/-! Data processing (41_data_processing.md sections 3 to 5): the ALU in exact arithmetic, the commit of a result and
of the flags, and the exception return (60_exceptions.md R279). -/

namespace Sys2Proof.DataProcessing
open Sys2Proof.Machine Sys2Proof.Spec Sys2Proof.WholeMachine Sys2Proof.Frames

/-! The ALU -/

section
variable (a b : Word) (c : Bool)

theorem addWithCarry_result : (addWithCarry a b c).result = a + b + BitVec.ofNat 32 c.toNat := by
  refine BitVec.eq_of_toNat_eq ?_
  rw [addWithCarry_result_toNat, BitVec.toNat_add, BitVec.toNat_add, BitVec.toNat_ofNat]
  omega

theorem toNat_not_add_self : (~~~b).toNat + b.toNat = 2 ^ 32 - 1 := by
  rw [BitVec.toNat_not]
  omega

/-- SBC: `a + ~b + C` is `a - b - (1 - C)`. -/
theorem addWithCarry_not_result_borrow :
    (addWithCarry a (~~~b) c).result = a - b - BitVec.ofNat 32 (1 - c.toNat) := by
  have complement := toNat_not_add_self b
  refine BitVec.eq_of_toNat_eq ?_
  rw [addWithCarry_result_toNat, BitVec.toNat_sub, BitVec.toNat_sub, BitVec.toNat_ofNat]
  cases c
  all_goals
    simp only [Bool.toNat_false, Bool.toNat_true]
    omega

theorem addWithCarry_not_carry_iff_borrow :
    (addWithCarry a (~~~b) c).carry = true ↔ b.toNat + (1 - c.toNat) ≤ a.toNat := by
  have complement := toNat_not_add_self b
  have carryIn := c.toNat_le
  rw [addWithCarry_carry_iff]
  omega

/-- V is set exactly when the exact signed sum does not fit a word. -/
theorem addWithCarry_overflow_iff_outOfRange :
    (addWithCarry a b c).overflow = true ↔ outOfRange (signedSum a b c) := by
  have carryIn := c.toNat_le
  have lower_a := a.le_toInt
  have lower_b := b.le_toInt
  have upper_a := a.toInt_lt
  have upper_b := b.toInt_lt
  rw [addWithCarry_overflow_iff, toInt_addWithCarry_result]
  simp only [signedSum, Int.bmod_def, outOfRange]
  omega

theorem toInt_not : (~~~b).toInt = -b.toInt - 1 := by
  have bound := b.isLt
  rw [BitVec.toInt_not, BitVec.toInt_eq_toNat_bmod]
  simp only [Int.bmod_def]
  omega

theorem signedSum_not : signedSum a (~~~b) c = a.toInt - b.toInt - (1 - (c.toNat : Int)) := by
  rw [signedSum, toInt_not]
  omega

theorem signedSum_not_true : signedSum a (~~~b) true = a.toInt - b.toInt := by
  rw [signedSum_not, Bool.toNat_true]
  omega

theorem signedSum_false : signedSum a b false = a.toInt + b.toInt := by
  rw [signedSum, Bool.toNat_false]
  omega

end

section
variable (op : DpOp) (a b : Word) (sc : Bool) (p : Word)

theorem alu_result : (alu op a b sc p).result = dpResult op a b (flagC p) := by
  cases op
  case sub | cmp => exact addWithCarry_not_result a b
  case rsb => exact addWithCarry_not_result b a
  case add | cmn => exact (addWithCarry_result a b false).trans (BitVec.add_zero (a + b))
  case adc => exact addWithCarry_result a b (flagC p)
  case sbc => exact addWithCarry_not_result_borrow a b (flagC p)
  all_goals rfl

theorem alu_carry_iff : (alu op a b sc p).carry = true ↔ dpCarry op a b (flagC p) sc := by
  cases op
  case sub | cmp => exact addWithCarry_not_carry_iff a b
  case rsb => exact addWithCarry_not_carry_iff b a
  case add | cmn => exact addWithCarry_carry_iff a b false
  case adc => exact addWithCarry_carry_iff a b (flagC p)
  case sbc => exact addWithCarry_not_carry_iff_borrow a b (flagC p)
  all_goals exact Iff.rfl

theorem alu_overflow_iff : (alu op a b sc p).overflow = true ↔ dpOverflow op a b (flagC p) (flagV p) := by
  cases op
  case sub | cmp => rw [alu, addWithCarry_overflow_iff_outOfRange, signedSum_not_true, dpOverflow]
  case rsb => rw [alu, addWithCarry_overflow_iff_outOfRange, signedSum_not_true, dpOverflow]
  case add | cmn => rw [alu, addWithCarry_overflow_iff_outOfRange, signedSum_false, dpOverflow]
  case adc => exact addWithCarry_overflow_iff_outOfRange a b (flagC p)
  case sbc => rw [alu, addWithCarry_overflow_iff_outOfRange, signedSum_not, dpOverflow]
  all_goals exact Iff.rfl

end

/-! The commit -/

/-- The status word after the commit (R160). -/
def statusAfter (sf : Bool) (o : AluOut) (p : Word) : Word := if sf then withNZCV p o else p

theorem bits_statusAfter (sf : Bool) (o : AluOut) (p : Word) : bits (statusAfter sf o p) 0 28 = bits p 0 28 := by
  unfold statusAfter
  split
  · refine bits_congr _ _ _ _ fun k hk => ?_
    rw [getLsbD_withNZCV, if_neg (by omega), if_neg (by omega), if_neg (by omega), if_neg (by omega)]
  · rfl

theorem dataProcCommit_of_test (op : DpOp) (sf : Bool) (m : Mode) (rd : Reg) (o : AluOut) (s : State)
    (test : op.isTest = true) : dataProcCommit op sf m rd o s =
      { s with cpsr := statusAfter sf o s.cpsr, pc := s.pc + 4#32, out := okOutput s } := by
  unfold dataProcCommit
  rw [test]
  cases sf <;> rfl

theorem dataProcCommit_of_writing (op : DpOp) (sf : Bool) (m : Mode) (rd : Reg) (o : AluOut) (s : State)
    (writing : op.isTest = false) : dataProcCommit op sf m rd o s =
      ({ s with cpsr := statusAfter sf o s.cpsr }.writeDest m rd o.result).completed := by
  unfold dataProcCommit
  rw [writing]
  cases sf <;> rfl

/-- What the ALU yields for an instruction in mode `m`. -/
def aluOut (op : DpOp) (m : Mode) (rn : Reg) (o : Operand2) (s : State) : AluOut :=
  alu op (s.readReg m rn) (shifterOperand m o s).value (shifterOperand m o s).carry s.cpsr

section
variable (op : DpOp) (c : Cond) (sf : Bool) (rn rd : Reg) (o : Operand2) (s : State) (m : Mode)
  (passed : conditionPassed c s.cpsr = true) (mode : s.mode = some m)
include passed mode

theorem exec_dataProc_of_mode : exec (Instr.dataProc op c sf rn rd o) s =
    if op = .mov ∧ sf = true ∧ rd = 15 ∧ m.privileged = true then exceptionReturn m (shifterOperand m o s).value s
    else .next (dataProcCommit op (sf || op.isTest) m rd (aluOut op m rn o s) s) := by
  rw [exec_dataProc, dataProcessing, whenPassed_of_pass _ _ _ passed, inMode_of_mode _ _ _ mode]
  by_cases mov : op = .mov
  · subst mov
    simp only [DpOp.isTest, Bool.or_false]
    rfl
  · rw [if_neg fun g => mov g.1, if_neg fun g => mov g.1]
    rfl

theorem exec_dataProc_of_not_return (notReturn : ¬(op = .mov ∧ sf = true ∧ rd = 15 ∧ m.privileged = true)) :
    exec (Instr.dataProc op c sf rn rd o) s =
      .next (dataProcCommit op (sf || op.isTest) m rd (aluOut op m rn o s) s) := by
  rw [exec_dataProc_of_mode op c sf rn rd o s m passed mode, if_neg notReturn]

end

/-- Settles O15: the commit writes Rd, and the result is the ALU's. -/
theorem dataProcessingWritesResult : Obligations.DataProcessingWritesResult := by
  intro op c sf rn rd o s m writing dest passed mode
  refine ⟨_, exec_dataProc_of_not_return op c sf rn rd o s m passed mode fun g => dest g.2.2.1, ?_⟩
  rw [writing, Bool.or_false, dataProcCommit_of_writing _ _ _ _ _ _ writing]
  obtain ⟨result, cpsr, pc, registers, memory, system, out⟩ :=
    writeDest_completed { s with cpsr := statusAfter sf (aluOut op m rn o s) s.cpsr } m rd
      (aluOut op m rn o s).result dest
  refine ⟨result.trans (alu_result _ _ _ _ _), pc, fun keep => ?_, ?_, registers, memory, system, out⟩
  · rw [cpsr, keep]
    rfl
  · rw [cpsr]
    exact bits_statusAfter _ _ _

/-- Settles O16: with the S bit, the status word after is `withNZCV` of the ALU's outputs. -/
theorem dataProcessingSetsFlags : Obligations.DataProcessingSetsFlags := by
  intro op c sf rn rd o s m setsFlags notReturn passed mode
  have flags : (sf || op.isTest) = true := by
    rw [Bool.or_eq_true]
    exact setsFlags.symm
  refine ⟨_, exec_dataProc_of_not_return op c sf rn rd o s m passed mode
    fun ⟨mov, _, pc, privileged⟩ => notReturn ⟨mov, pc, privileged⟩, ?_⟩
  rw [flags, dataProcCommit_cpsr, if_pos rfl]
  have bit (j : Nat) := getLsbD_withNZCV s.cpsr (aluOut op m rn o s) j
  refine ⟨?n, ?z, ?c, ?v, bits_statusAfter true _ _⟩
  case n =>
    rw [flagN, bit, if_pos rfl, getLsbD_31_eq_neg, decide_eq_true_iff, aluOut, alu_result]
  case z =>
    rw [flagZ, bit, if_neg (by decide), if_pos rfl, decide_eq_true_iff, aluOut, alu_result]
  case c =>
    rw [flagC, bit, if_neg (by decide), if_neg (by decide), if_pos rfl, aluOut, alu_carry_iff]
  case v =>
    rw [flagV, bit, if_neg (by decide), if_neg (by decide), if_neg (by decide), if_pos rfl, aluOut,
      alu_overflow_iff]

/-- Settles O17: the commit of a test opcode writes the status word and `pc` alone. -/
theorem testOpcodesWriteOnlyFlags : Obligations.TestOpcodesWriteOnlyFlags := by
  intro op c sf rn rd o s m test passed mode
  have notMov : op ≠ .mov := by rintro rfl; cases test
  refine ⟨statusAfter (sf || op.isTest) (aluOut op m rn o s) s.cpsr, ?_, bits_statusAfter _ _ _⟩
  rw [exec_dataProc_of_not_return op c sf rn rd o s m passed mode fun g => notMov g.1,
    dataProcCommit_of_test _ _ _ _ _ _ test]

/-- Settles O18: the commit of a result into r15 is a redirection. -/
theorem dataProcessingIntoPc : Obligations.DataProcessingIntoPc := by
  intro op c sf rn o s m writing notReturn passed mode
  refine ⟨statusAfter sf (aluOut op m rn o s) s.cpsr, ?_, fun keep => by rw [keep]; rfl, bits_statusAfter _ _ _⟩
  rw [exec_dataProc_of_not_return op c sf rn 15 o s m passed mode
      fun ⟨mov, flags, _, privileged⟩ => notReturn ⟨mov, flags, privileged⟩,
    writing, Bool.or_false, dataProcCommit_of_writing _ _ _ _ _ _ writing, writeDest_fifteen, aluOut, alu_result]
  rfl

/-! The exception return -/

theorem exec_movsPc_of_implemented (c : Cond) (rn : Reg) (o : Operand2) (s : State) (m : Mode) (p : Word)
    (passed : conditionPassed c s.cpsr = true) (mode : s.mode = some m) (privileged : m.privileged = true)
    (saved : s.spsr m = some p) (implemented : implementedMode (modeField p)) :
    exec (Instr.dataProc .mov c true rn 15 o) s = .next { s with
      cpsr := p, pc := (shifterOperand m o s).value, out := okOutput s } := by
  have decodes : Mode.ofBits (modeField p) ≠ none := fun none => (ofBits_eq_none_iff _).1 none implemented
  obtain ⟨m', hm'⟩ := Option.ne_none_iff_exists'.1 decodes
  rw [exec_dataProc_of_mode _ c _ rn _ o s m passed mode, if_pos ⟨rfl, rfl, rfl, privileged⟩,
    exceptionReturn_of_good m m' _ p s saved hm']
  rfl

/-- Settles O19: both privileged modes have an SPSR, and its mode field decides between return and defect. -/
theorem movsPcReturnsFromTrap : Obligations.MovsPcReturnsFromTrap := by
  intro c rn o s passed
  refine ⟨fun mode implemented => ?_, fun mode implemented => ?_, fun mode bad => ?_, fun mode bad => ?_⟩
  · exact exec_movsPc_of_implemented c rn o s .supervisor s.spsrSvc passed mode rfl rfl implemented
  · exact exec_movsPc_of_implemented c rn o s .undefined s.spsrUnd passed mode rfl rfl implemented
  · exact exec_movsPc_of_unimplemented c rn o s .supervisor passed mode rfl ((ofBits_eq_none_iff _).2 bad)
  · exact exec_movsPc_of_unimplemented c rn o s .undefined passed mode rfl ((ofBits_eq_none_iff _).2 bad)

/-! A register shifted by a register: for each type the rows of the table R154 -/

section
variable (c : Bool) (m : Word) (n : Nat)

/-- A shift by all 32 bits and more leaves nothing. -/
theorem mul_two_pow_mod_of_le (h : 32 ≤ n) : m.toNat * 2 ^ n % 2 ^ 32 = 0 := by
  obtain ⟨k, rfl⟩ := Nat.exists_eq_add_of_le h
  rw [Nat.pow_add, Nat.mul_left_comm, Nat.mul_mod_right]

theorem div_two_pow_of_le (h : 32 ≤ n) : m.toNat / 2 ^ n = 0 :=
  Nat.div_eq_of_lt (m.isLt.trans_le (Nat.pow_le_pow_right (by decide) h))

theorem shiftByReg_lsl (h : 0 < n) :
    (shiftByReg c m .lsl n).value.toNat = m.toNat * 2 ^ n % 2 ^ 32 ∧
    (shiftByReg c m .lsl n).carry = decide (n ≤ 32 ∧ m.toNat / 2 ^ (32 - n) % 2 = 1) := by
  rw [shiftByReg, if_neg h.ne']
  rcases Nat.lt_trichotomy n 32 with below | rfl | above
  · simp only [below, if_true, below.le, true_and]
    exact ⟨by rw [BitVec.toNat_shiftLeft, Nat.shiftLeft_eq], getLsbD_eq_div_mod _ _⟩
  · exact ⟨(mul_two_pow_mod_of_le m 32 le_rfl).symm,
      (getLsbD_eq_div_mod m 0).trans (by simp only [Nat.sub_self, le_refl, true_and])⟩
  · simp only [above.not_gt, above.ne', if_false, above.not_ge, false_and]
    exact ⟨(mul_two_pow_mod_of_le m n above.le).symm, rfl⟩

theorem shiftByReg_lsr (h : 0 < n) :
    (shiftByReg c m .lsr n).value.toNat = m.toNat / 2 ^ n ∧
    (shiftByReg c m .lsr n).carry = decide (m.toNat / 2 ^ (n - 1) % 2 = 1) := by
  rw [shiftByReg, if_neg h.ne']
  rcases Nat.lt_trichotomy n 32 with below | rfl | above
  · simp only [below, if_true]
    exact ⟨by rw [BitVec.toNat_ushiftRight, Nat.shiftRight_eq_div_pow], getLsbD_eq_div_mod _ _⟩
  · exact ⟨(div_two_pow_of_le m 32 le_rfl).symm, getLsbD_eq_div_mod m 31⟩
  · simp only [above.not_gt, above.ne', if_false]
    exact ⟨(div_two_pow_of_le m n above.le).symm, by simp [div_two_pow_of_le m (n - 1) (by omega)]⟩

theorem toInt_sshiftRight_eq_div : (m.sshiftRight n).toInt = m.toInt / 2 ^ n := by
  rw [BitVec.toInt_sshiftRight, Int.shiftRight_eq_div_pow]
  norm_cast

/-- A bit of a word by division of its signed value; from bit 31 on it is the sign. -/
theorem getLsbD_eq_toInt_div_mod :
    (if n < 32 then m.getLsbD n else m.getLsbD 31) = decide (m.toInt / 2 ^ n % 2 = 1) := by
  have low : (m.sshiftRight n).getLsbD 0 = if n < 32 then m.getLsbD n else m.getLsbD 31 := by
    rw [BitVec.getLsbD_sshiftRight, BitVec.msb_eq_getLsbD_last, Nat.add_zero]
    rfl
  have parity (x : Word) : x.getLsbD 0 = decide (x.toInt % 2 = 1) := by
    rw [getLsbD_eq_div_mod, BitVec.toInt_eq_toNat_cond, decide_eq_decide]
    split <;> omega
  rw [← low, parity, toInt_sshiftRight_eq_div]

theorem signFill_eq_sshiftRight (h : 32 ≤ n) : signFill m = m.sshiftRight n := by
  refine BitVec.eq_of_getLsbD_eq fun j hj => ?_
  have ones : (0xFFFFFFFF#32 : Word) = BitVec.allOnes 32 := rfl
  rw [BitVec.getLsbD_sshiftRight, if_neg (by omega), BitVec.msb_eq_getLsbD_last, signFill, ones]
  rw [decide_eq_false (Nat.not_le.2 hj), Bool.not_false, Bool.true_and]
  cases m.getLsbD 31
  case false => exact BitVec.getLsbD_zero
  case true => exact BitVec.getLsbD_allOnes.trans (decide_eq_true hj)

theorem shiftByReg_asr (h : 0 < n) :
    (shiftByReg c m .asr n).value.toInt = m.toInt / 2 ^ n ∧
    (shiftByReg c m .asr n).carry = decide (m.toInt / 2 ^ (n - 1) % 2 = 1) := by
  rw [shiftByReg, if_neg h.ne', ← getLsbD_eq_toInt_div_mod, ← toInt_sshiftRight_eq_div]
  by_cases below : n < 32
  · simp only [below, if_true, show n - 1 < 32 by omega]
    exact ⟨trivial, trivial⟩
  · simp only [below, if_false]
    refine ⟨by rw [signFill_eq_sshiftRight m n (by omega)], ?_⟩
    split
    · rw [show n - 1 = 31 by omega]
    · rfl

theorem shiftByReg_ror (h : 0 < n) :
    (∀ j, j < 32 → (shiftByReg c m .ror n).value.getLsbD j = m.getLsbD ((j + n) % 32)) ∧
    (shiftByReg c m .ror n).carry = m.getLsbD ((n + 31) % 32) := by
  rw [shiftByReg, if_neg h.ne']
  by_cases whole : n % 32 = 0
  · simp only [whole, if_true]
    exact ⟨fun j hj => by rw [show (j + n) % 32 = j by omega], by rw [show (n + 31) % 32 = 31 by omega]⟩
  · simp only [whole, if_false]
    refine ⟨fun j hj => ?_, by rw [show (n + 31) % 32 = n % 32 - 1 by omega]⟩
    rw [getLsbD_rotateRight_mod _ _ _ hj, Nat.add_mod_mod]

end

/-- Settles O22: a lemma for each row. -/
theorem shiftByRegisterTable : Obligations.ShiftByRegisterTable := by
  intro mode rm rs s m n sh
  refine ⟨fun zero ty => ?_, shiftByReg_lsl (flagC s.cpsr) m n, shiftByReg_lsr (flagC s.cpsr) m n,
    shiftByReg_asr (flagC s.cpsr) m n, shiftByReg_ror (flagC s.cpsr) m n⟩
  exact if_pos zero

end Sys2Proof.DataProcessing

/-! Branches (42_branch.md): the targets in exact arithmetic modulo 2^32. -/

namespace Sys2Proof.Branch
open Sys2Proof.Machine Sys2Proof.Spec Sys2Proof.WholeMachine

theorem toInt_append_zero (k : BitVec 24) : (k ++ 0b00#2).toInt = 4 * k.toInt := by
  have bound := k.isLt
  have shifted : (k ++ 0b00#2).toNat = 4 * k.toNat := by
    rw [BitVec.toNat_append, Nat.shiftLeft_eq, BitVec.toNat_ofNat, Nat.zero_mod, Nat.or_zero, Nat.mul_comm]
  rw [BitVec.toInt_eq_toNat_cond, BitVec.toInt_eq_toNat_cond, shifted]
  split <;> split <;> omega

theorem branchTarget_eq_ofInt (pc : Word) (k : BitVec 24) :
    branchTarget pc k = BitVec.ofInt 32 ((pc.toNat : Int) + 8 + 4 * k.toInt) := by
  have offset : branchOffset k = BitVec.ofInt 32 (4 * k.toInt) := by
    rw [branchOffset, ← toInt_append_zero, ← BitVec.ofInt_toInt (x := (k ++ 0b00#2).signExtend 32),
      BitVec.toInt_signExtend_of_le (by decide)]
  rw [branchTarget, offset, BitVec.ofInt_add, BitVec.ofInt_add, BitVec.ofInt_natCast, BitVec.ofNat_toNat,
    BitVec.setWidth_eq]
  rfl

/-- Settles O24: B is the redirection to `branchTarget`. -/
theorem branchReachesTarget : Obligations.BranchReachesTarget := by
  intro c k s passed
  rw [← branchTarget_eq_ofInt]
  exact whenPassed_of_pass c s _ passed

/-- Settles O25: in mode `m`, the write of r14 is a write of the copy of `m`. -/
theorem branchWithLinkSavesReturn : Obligations.BranchWithLinkSavesReturn := by
  intro c k s m passed mode
  rw [← branchTarget_eq_ofInt]
  exact (whenPassed_of_pass c s _ passed).trans (inMode_of_mode s m _ mode)

/-- Clearing bit 0 rounds down to an even address. -/
theorem toNat_clear_bit_zero (v : Word) : (v &&& 0xFFFFFFFE#32).toNat = v.toNat / 2 * 2 := by
  have shifted : v &&& 0xFFFFFFFE#32 = (v >>> 1) <<< 1 := by
    have mask : (0xFFFFFFFE#32 : Word) = BitVec.allOnes 32 <<< 1 := by decide
    refine BitVec.eq_of_getLsbD_eq fun j hj => ?_
    rw [mask, BitVec.getLsbD_and, BitVec.getLsbD_shiftLeft, BitVec.getLsbD_shiftLeft, BitVec.getLsbD_allOnes,
      BitVec.getLsbD_ushiftRight]
    by_cases zero : j = 0
    · simp [zero]
    · have above : 1 + (j - 1) = j := by omega
      simp [hj, zero, above, show j - 1 < 32 by omega]
  have half := v.isLt
  rw [shifted, BitVec.toNat_shiftLeft, BitVec.toNat_ushiftRight, Nat.shiftLeft_eq, Nat.shiftRight_eq_div_pow]
  omega

/-- Settles O26: T is bit 5, and the mask of the target clears bit 0. -/
theorem branchExchangeRecordsT : Obligations.BranchExchangeRecordsT := by
  intro c rm s m passed mode
  exact ⟨_, _, (whenPassed_of_pass c s _ passed).trans (inMode_of_mode s m _ mode),
    toNat_clear_bit_zero (s.readReg m rm), fun j => getLsbD_withBit _ _ _ _ (by decide)⟩

end Sys2Proof.Branch

/-! Multiplication (44_multiply.md): the product modulo 2^32, N and Z, and the frame. -/

namespace Sys2Proof.Multiply
open Sys2Proof.Machine Sys2Proof.Spec Sys2Proof.WholeMachine Sys2Proof.Frames

/-- Modulo 2^32 the signed and the unsigned reading of the factors give one result (R233). -/
theorem ofNat_mul_add_eq_ofInt (x y z : Word) : BitVec.ofNat 32 (x.toNat * y.toNat + z.toNat) =
    BitVec.ofInt 32 (x.toInt * y.toInt + z.toInt) := by
  rw [BitVec.ofInt_add, BitVec.ofInt_mul, BitVec.ofNat_add, BitVec.ofNat_mul]
  simp only [BitVec.ofInt_toInt, BitVec.ofNat_toNat, BitVec.setWidth_eq]

theorem multiplyCommit_eq (sf : Bool) (m : Mode) (rd : Reg) (v : Word) (s : State) :
    multiplyCommit sf m rd v s =
      ({ s with cpsr := if sf then withNZ s.cpsr v else s.cpsr }.writeDest m rd v).completed := by
  unfold multiplyCommit
  cases sf <;> rfl

/-- What MUL and MLA share: Rd, N and Z, and everything that is kept. -/
theorem multiplyCommit_completes (sf : Bool) (m : Mode) (rd : Reg) (v : Word) (s : State) (h : rd ≠ 15) :
    let t := multiplyCommit sf m rd v s
    t.readReg m rd = v ∧
      (sf = true → (flagN t.cpsr = true ↔ 2 ^ 31 ≤ v.toNat) ∧ (flagZ t.cpsr = true ↔ v.toNat = 0)) ∧
      (sf = false → t.cpsr = s.cpsr) ∧ bits t.cpsr 0 30 = bits s.cpsr 0 30 ∧
      t.pc = s.pc + 4#32 ∧ RegistersKept m [rd] s t ∧ MemoryKept s t ∧ SystemKept s t ∧ t.out = okOutput s := by
  intro t
  obtain ⟨result, cpsr, pc, registers, memory, system, out⟩ :=
    writeDest_completed { s with cpsr := if sf then withNZ s.cpsr v else s.cpsr } m rd v h
  rw [← multiplyCommit_eq sf m rd v s] at result cpsr pc registers memory system out
  refine ⟨result, fun flags => ?_, fun keep => ?_, ?_, pc, registers, memory, system, out⟩
  · rw [cpsr, if_pos flags, flagN, flagZ, getLsbD_withNZ, getLsbD_withNZ]
    refine ⟨?_, ?_⟩
    · rw [if_pos rfl, DataProcessing.getLsbD_31_eq_le, decide_eq_true_iff]
    · rw [if_neg (by decide), if_pos rfl, decide_eq_true_iff, BitVec.toNat_eq]
      rfl
  · rw [cpsr, keep]
    rfl
  · rw [cpsr]
    refine bits_congr _ _ _ _ fun k hk => ?_
    cases sf
    case false => rfl
    case true => exact (getLsbD_withNZ _ _ _).trans (by rw [if_neg (by omega), if_neg (by omega)])

/-- Settles O35: MUL is the case of MLA with nothing added, and the rest is the shared commit. -/
theorem multiplyResultAndFlags : Obligations.MultiplyResultAndFlags := by
  intro c sf rd rn rs rm s m dest passed mode
  constructor
  · refine ⟨_, (whenPassed_of_pass c s _ passed).trans (inMode_of_mode s m _ mode), ?_⟩
    obtain ⟨result, rest⟩ := multiplyCommit_completes sf m rd
      (BitVec.ofNat 32 ((s.readReg m rm).toNat * (s.readReg m rs).toNat)) s dest
    rw [result]
    have signed := ofNat_mul_add_eq_ofInt (s.readReg m rm) (s.readReg m rs) 0#32
    exact ⟨BitVec.toNat_ofNat _ _, by simpa using signed, rest⟩
  · refine ⟨_, (whenPassed_of_pass c s _ passed).trans (inMode_of_mode s m _ mode), ?_⟩
    obtain ⟨result, rest⟩ := multiplyCommit_completes sf m rd
      (BitVec.ofNat 32 ((s.readReg m rm).toNat * (s.readReg m rs).toNat + (s.readReg m rn).toNat)) s dest
    rw [result]
    exact ⟨BitVec.toNat_ofNat _ _, ofNat_mul_add_eq_ofInt _ _ _, rest⟩

end Sys2Proof.Multiply

/-! The system instructions (45_system.md) and the coprocessor bank (46_coprocessor.md). -/

namespace Sys2Proof.SystemRules
open Sys2Proof.Machine Sys2Proof.Spec Sys2Proof.WholeMachine Sys2Proof.Frames

/-- Settles O36: the source is read, then one register is written. -/
theorem mrsReadsStatusWords : Obligations.MrsReadsStatusWords := by
  intro c sp rd s m dest passed mode hasSpsr
  have source : exec (.mrs c sp rd) s = .next (s.writeDest m rd
      (if sp = false then s.cpsr else if m = .supervisor then s.spsrSvc else s.spsrUnd)).completed := by
    refine (whenPassed_of_pass c s _ passed).trans ((inMode_of_mode s m _ mode).trans ?_)
    cases sp
    case false => rfl
    case true => rw [if_pos rfl, spsr_of_privileged s m ((privileged_iff m).2 (hasSpsr rfl))]; rfl
  exact ⟨_, source, writeDest_completed s m rd _ dest⟩

/-- Settles O37: with an implemented mode value MSR completes, with the bits that `execMsr_eq_next` gives. -/
theorem msrWritesFlagsAndMode : Obligations.MsrWritesFlagsAndMode := by
  intro c mask rm s m passed mode implemented
  have completes : ∃ t, exec (.msr c mask rm) s = .next t := by
    refine ⟨_, (whenPassed_of_pass c s _ passed).trans ((inMode_of_mode s m _ mode).trans (if_neg ?_))⟩
    rintro ⟨write, none⟩
    obtain ⟨field, privileged⟩ := Bool.and_eq_true_iff.1 write
    exact (ofBits_eq_none_iff _).1 none (implemented field ((privileged_iff m).1 privileged))
  obtain ⟨t, ran⟩ := completes
  rcases execMsr_eq_next c mask rm s t ran with ⟨failed, -⟩ | ⟨-, m', p, mode', -, bits, rfl⟩
  · exact nomatch failed.symm.trans passed
  · obtain rfl : m' = m := Option.some.inj (mode'.symm.trans mode)
    exact ⟨p, ran, fun j _ => by simp only [bits j, privileged_iff]⟩

/-- Settles O38: the body of SWI is `raiseSoftwareInterrupt`, whose entry sequence is that of R275. -/
theorem swiEntersSupervisorTrap : Obligations.SwiEntersSupervisorTrap := by
  intro c n s passed
  obtain ⟨modeBits, otherBits⟩ := StepAndCondition.trapStatus_bits s.cpsr .supervisor
  exact ⟨_, whenPassed_of_pass c s _ passed, modeBits, otherBits⟩

/-- Settles O39: the body of WFI, which does not look at the level. -/
theorem wfiHaltsAtNextInstruction : Obligations.WfiHaltsAtNextInstruction :=
  fun c s passed => whenPassed_of_pass c s _ passed

section
variable (c : Cond) (id : Cp15Id) (rd : Reg) (s : State) (m : Mode)
  (passed : conditionPassed c s.cpsr = true) (mode : s.mode = some m)
include passed mode

theorem exec_mrc_of_some (v : Word) (read : s.readCp15 id = some v) :
    exec (.mrc c id rd) s = .next (s.writeDest m rd v).completed := by
  rw [exec, execMrc, whenPassed_of_pass _ _ _ passed, inMode_of_mode _ _ _ mode, read]

theorem exec_mcr_of_listed (reset : Word) (listed : cellGet (cp15Number id) s.cfg.cp15 = some reset) :
    exec (.mcr c id rd) s = .next { s with
      cp15 := cellSet (cp15Number id) (s.readReg m rd) s.cp15, pc := s.pc + 4#32, out := okOutput s } := by
  rw [exec, execMcr, whenPassed_of_pass _ _ _ passed, inMode_of_mode _ _ _ mode, State.writeCp15, listed]
  rfl

end

/-- Settles O40: the bank answers the value it lists, then one register is written. -/
theorem coprocessorReadCompletes : Obligations.CoprocessorReadCompletes := by
  intro c id rd s m reset v dest passed mode listed held
  have read : s.readCp15 id = some v := by
    rw [State.readCp15, listed, held]
    rfl
  exact ⟨_, exec_mrc_of_some c id rd s m passed mode v read, writeDest_completed s m rd v dest⟩

/-- Settles O41: the new bank is a keyed store with one key written. -/
theorem coprocessorWriteCompletes : Obligations.CoprocessorWriteCompletes := by
  intro c id rd s m reset passed mode listed
  refine ⟨_, exec_mcr_of_listed c id rd s m passed mode reset listed, fun k => ?_⟩
  split
  case isTrue same => rw [same, cellGet_cellSet_same]
  case isFalse other => rw [cellGet_cellSet_of_ne _ _ _ _ other]

/-- Settles O42: neither access finds an unlisted identifier. -/
theorem unimplementedCoprocessorRegisterFaults : Obligations.UnimplementedCoprocessorRegisterFaults := by
  intro c id rd s m passed mode unlisted
  constructor
  · rw [exec, execMrc, whenPassed_of_pass _ _ _ passed, inMode_of_mode _ _ _ mode, State.readCp15, unlisted]
  · rw [exec, execMcr, whenPassed_of_pass _ _ _ passed, inMode_of_mode _ _ _ mode, State.writeCp15, unlisted]

/-- Settles O43: the MCR found the identifier listed, and left the condition and the mode as they were. -/
theorem coprocessorRoundTrip : Obligations.CoprocessorRoundTrip := by
  intro c id rd rd' s t m dest passed mode ran
  rcases execMcr_eq_next c id rd s t ran with ⟨failed, -⟩ | ⟨-, m', mode', ⟨reset, listed⟩, written⟩
  · exact nomatch failed.symm.trans passed
  · obtain rfl : m' = m := Option.some.inj (mode'.symm.trans mode)
    have passed' : conditionPassed c t.cpsr = true := by rw [written]; exact passed
    have mode'' : t.mode = some m' := by rw [written]; exact mode
    have read : t.readCp15 id = some (s.readReg m' rd) := by simp [written, State.readCp15, listed]
    obtain ⟨result, -⟩ := writeDest_completed t m' rd' (s.readReg m' rd) dest
    exact ⟨_, exec_mrc_of_some c id rd' t m' passed' mode'' _ read, result⟩

/-- Settles O44: each field keeps to its own bits of the number (R41). -/
theorem coprocessorIdentifiersAreDistinct : Obligations.CoprocessorIdentifiersAreDistinct := by
  rintro ⟨opc1, crn, crm, opc2⟩ ⟨opc1', crn', crm', opc2'⟩
  simp only [cp15Number, Cp15Id.mk.injEq, Fin.ext_iff]
  omega

end Sys2Proof.SystemRules

/-! Loads, and the stops of loads and stores (43_load_store.md); what a word write leaves to be read on the
reference bus (20_memory.md sections 5 and 7). -/

namespace Sys2Proof.LoadStore
open Sys2Proof.Machine Sys2Proof.Spec Sys2Proof.WholeMachine Sys2Proof.Frames

/-! The address unit -/

theorem updatedAddress_eq_ofInt (base : Word) (up : Bool) (off : BitVec 12) : updatedAddress base up off =
    BitVec.ofInt 32 ((base.toNat : Int) + (if up then (off.toNat : Int) else -(off.toNat : Int))) := by
  have bound := off.isLt
  have widened : (off.setWidth 32).toNat = off.toNat := by
    rw [BitVec.toNat_setWidth]
    omega
  refine BitVec.eq_of_toNat_eq ?_
  rw [updatedAddress, BitVec.toNat_ofInt]
  cases up
  case false =>
    rw [if_neg (by decide), if_neg (by decide), BitVec.toNat_sub, widened]
    omega
  case true =>
    rw [if_pos rfl, if_pos rfl, BitVec.toNat_add, widened]
    omega

/-- Settles O27: the sum modulo 2^32, and the three cases of the access address. -/
theorem addressingModes : Obligations.AddressingModes :=
  fun base up off => ⟨updatedAddress_eq_ofInt base up off, rfl, rfl, rfl⟩

/-! LDR -/

theorem registersKept_trans {m : Mode} {ds ds' : List Reg} {s t u : State} (h : RegistersKept m ds s t)
    (h' : RegistersKept m ds' t u) : RegistersKept m (ds' ++ ds) s u := by
  obtain ⟨view, banks⟩ := h
  obtain ⟨view', banks'⟩ := h'
  refine ⟨fun i hi other => ?_, fun m' hm' => ?_⟩
  · rw [List.mem_append, not_or] at other
    obtain ⟨other', other⟩ := other
    rw [view' i hi other', view i hi other]
  · obtain ⟨r13, r14⟩ := banks m' hm'
    obtain ⟨r13', r14'⟩ := banks' m' hm'
    exact ⟨r13'.trans r13, r14'.trans r14⟩

theorem readReg_writeBack_base (s : State) (m : Mode) (ix : Index) (rn : Reg) (v : Word) (writeback : ix ≠ .offset)
    (h : rn ≠ 15) : (s.writeBack m ix rn v).readReg m rn = v := by
  rw [writeBack_of_ne_offset s m ix rn v writeback, readReg_writeReg_same s m rn v h]

/-- Exclusion b of R119: a base that is written back is not the destination. -/
theorem base_ne_dest (load : Bool) (ix : Index) (c : Cond) (up : Bool) (rn rd : Reg) (off : BitVec 12)
    (wf : (Instr.memXfer load ix c up rn rd off).wf = true) (h : ix ≠ .offset) : rn ≠ rd := by
  rintro rfl
  rw [RoundTrip.wf_memXfer_eq_false load ix c up rn rn off h (.inl rfl)] at wf
  cases wf

section
variable (ix : Index) (c : Cond) (up : Bool) (rn rd : Reg) (off : BitVec 12) (s : State) (m : Mode)

/-- The state of a load between its read, which leaves `d` behind the bus, and the write of Rd. -/
def loadBase (d : BusContents) : State :=
  (s.withContents d).writeBack m ix rn (updatedAddress (s.readReg m rn) up off)

theorem loadBase_registersKept (d : BusContents) :
    RegistersKept m (if ix = .offset then [] else [rn]) s (loadBase ix up rn off s m d) :=
  registersKept_writeBack (s.withContents d) m ix rn _

theorem exec_load_of_wordRead (v : Word) (d : BusContents) (passed : conditionPassed c s.cpsr = true)
    (mode : s.mode = some m) (read : wordRead s (accessAddress ix (s.readReg m rn) up off) v d) :
    exec (Instr.memXfer true ix c up rn rd off) s =
      .next ((loadBase ix up rn off s m d).writeDest m rd v).completed := by
  rw [exec_load, loadWord, whenPassed_of_pass _ _ _ passed, inMode_of_mode _ _ _ mode]
  simp only [(StepAndCondition.memRead_eq_ok_iff_wordRead .load s _ v d).2 read]
  rfl

end

theorem memoryKept_of_wordRead {s t : State} {a v : Word} {d : BusContents} (read : wordRead s a v d)
    (contents : t.contents = d) (reference : s.cfg.bus = .reference) : MemoryKept s t := by
  obtain ⟨mem, platform⟩ := StepAndCondition.wordRead_contents s a v d read
  subst contents
  exact memoryKept_of_mem mem (platform reference)

/-- Settles O28: the writeback keeps all but the base, and then the write of Rd keeps all but Rd, which is
another register. -/
theorem loadWordCompletes : Obligations.LoadWordCompletes := by
  intro ix c up rn rd off s m v d wf dest passed mode read
  have base : ix ≠ .offset → rn ≠ 15 := base_ne_fifteen true ix c up rn rd off wf
  obtain ⟨result, cpsr, pc, registers, -, -, -⟩ := writeDest_completed (loadBase ix up rn off s m d) m rd v dest
  refine ⟨_, exec_load_of_wordRead ix c up rn rd off s m v d passed mode read, result, fun hix => ?base, ?pc, ?cpsr,
    ?registers, ?contents, memoryKept_of_wordRead read ?contents, ?system, ?output⟩
  case base =>
    obtain ⟨view, -⟩ := registers
    rw [view rn (base hix) (mt List.mem_singleton.1 (base_ne_dest true ix c up rn rd off wf hix))]
    exact readReg_writeBack_base _ m ix rn _ hix (base hix)
  case pc => rw [pc, loadBase, writeBack_pc _ _ _ _ _ base, State.withContents_pc]
  case cpsr => simp [loadBase]
  case registers =>
    have both := registersKept_trans (loadBase_registersKept ix up rn off s m d) registers
    split at both
    case isTrue offset => rwa [if_pos offset]
    case isFalse writeback => rwa [if_neg writeback]
  case contents => simp [loadBase, State.contents]
  case system => simp [loadBase, SystemKept]
  case output => simp [loadBase, okOutput]

/-- Settles O29: as O28, with the redirection in place of the write of Rd. -/
theorem loadIntoPc : Obligations.LoadIntoPc := by
  intro ix c up rn off s m v d wf passed mode read
  have base : ix ≠ .offset → rn ≠ 15 := base_ne_fifteen true ix c up rn 15 off wf
  refine ⟨((loadBase ix up rn off s m d).redirect v).completed, ?ran, rfl, ?cpsr, fun hix => ?base, ?registers,
    ?contents, memoryKept_of_wordRead read ?contents, ?system, ?output⟩
  case ran => rw [exec_load_of_wordRead ix c up rn 15 off s m v d passed mode read, writeDest_fifteen]
  case base =>
    rw [readReg_completed, readReg_redirect _ _ _ _ (base hix)]
    exact readReg_writeBack_base _ m ix rn _ hix (base hix)
  case cpsr => simp [loadBase]
  case registers => exact registersKept_congr (loadBase_registersKept ix up rn off s m d) rfl rfl rfl
  case contents => simp [loadBase, State.contents]
  case system => simp [loadBase, SystemKept]
  case output => simp [loadBase, okOutput]

/-! Where loads and stores stop -/

theorem write32_of_not_writeAccepted (s : State) (a v : Word) (h : ¬ writeAccepted s a v) :
    (busOf s.cfg).write32 a v s.contents = none := by
  unfold writeAccepted at h
  split at h
  case h_1 reference =>
    have refused : ¬ busAccepts s.cfg a 4 = true := mt (busAccepts_iff s.cfg a 4).1 h
    simp [busOf_reference _ reference, liftBus, referenceBus, refused]
  case h_2 n platform =>
    rw [Option.not_isSome_iff_eq_none] at h
    simp [busOf_platform _ _ platform, liftBus, h]

theorem memWord_eq_none_of_unwritten (s : State) (a : Word) (h : ∃ k, k < 4 ∧ memByte s (a.toNat + k) = none) :
    memWord s.mem a.toNat = none := by
  obtain ⟨k, hk, unwritten⟩ := h
  refine Option.eq_none_iff_forall_ne_some.2 fun v held => ?_
  have written := (StepAndCondition.memWord_eq_some_iff_holdsWord s a v).1 held k hk
  exact nomatch unwritten.symm.trans written

theorem read32_of_readUnwritten (s : State) (a : Word) (h : readUnwritten s a) :
    (busOf s.cfg).read32 a s.contents = .unwritten := by
  unfold readUnwritten at h
  split at h
  case h_1 reference =>
    obtain ⟨mapped, hole⟩ := h
    have accepted : busAccepts s.cfg a 4 = true := (busAccepts_iff s.cfg a 4).2 mapped
    have empty := memWord_eq_none_of_unwritten s a hole
    simp [busOf_reference _ reference, liftBus, referenceBus, referenceRead, accepted, empty, mapAnswer]
  case h_2 n platform => simp [busOf_platform _ _ platform, liftBus, h, mapAnswer]

section
variable (ix : Index) (c : Cond) (up : Bool) (rn rd : Reg) (off : BitVec 12) (s : State) (m : Mode) (f : Fault)
  (passed : conditionPassed c s.cpsr = true) (mode : s.mode = some m)
include passed mode

theorem exec_load_of_fault
    (read : memRead (busOf s.cfg) .load (accessAddress ix (s.readReg m rn) up off) s = .error f) :
    exec (Instr.memXfer true ix c up rn rd off) s = .fault f := by
  rw [exec_load, loadWord, whenPassed_of_pass _ _ _ passed, inMode_of_mode _ _ _ mode]
  simp only [read]

theorem exec_store_of_fault
    (write : memWrite (busOf s.cfg) (accessAddress ix (s.readReg m rn) up off) (s.readReg m rd) s = .error f) :
    exec (Instr.memXfer false ix c up rn rd off) s = .fault f := by
  rw [exec_store, storeWord, whenPassed_of_pass _ _ _ passed, inMode_of_mode _ _ _ mode]
  simp only [write]

end

/-- Settles O31: the bus's refusal is the answer of the read or of the write, and that of the instruction. -/
theorem busFaultStopsTransfer : Obligations.BusFaultStopsTransfer := by
  intro load ix c up rn rd off s m passed mode refused
  cases load
  case false =>
    exact exec_store_of_fault ix c up rn rd off s m _ passed mode
      (memWrite_of_memoryFault _ _ _ _ (write32_of_not_writeAccepted s _ _ refused))
  case true =>
    exact exec_load_of_fault ix c up rn rd off s m _ passed mode
      (memRead_of_memoryFault _ _ _ _ (StepRules.read32_of_readRefused s _ refused))

/-- Settles O32: likewise with the answer `unwritten`. -/
theorem loadOfUnwrittenMemoryStops : Obligations.LoadOfUnwrittenMemoryStops := by
  intro ix c up rn rd off s m passed mode unwritten
  refine exec_load_of_fault ix c up rn rd off s m _ passed mode ?_
  simp only [memRead, read32_of_readUnwritten s _ unwritten]

/-! Reading after a word write on the reference bus -/

theorem memWord_memSetWord_same (s : State) (a v : Word) : memWord (memSetWord s.mem a.toNat v) a.toNat = some v :=
  (StepAndCondition.memWord_eq_some_iff_holdsWord { s with mem := memSetWord s.mem a.toNat v } a v).2
    (holdsWord_memSetWord s a v)

/-- Two aligned words that differ do not overlap. -/
theorem memWord_memSetWord_of_ne (m : List Host.Cell) (a b v : Word) (ha : a.toNat % 4 = 0) (hb : b.toNat % 4 = 0)
    (ne : b ≠ a) : memWord (memSetWord m a.toNat v) b.toNat = memWord m b.toNat := by
  have differ : b.toNat ≠ a.toNat := fun h => ne (BitVec.eq_of_toNat_eq h)
  have outside (k : Nat) (hk : k < 4) : cellGet (b.toNat + k) (memSetWord m a.toNat v) = cellGet (b.toNat + k) m := by
    rw [cellGet_memSetWord, if_neg (by omega), if_neg (by omega), if_neg (by omega), if_neg (by omega)]
  have first := outside 0 (by decide)
  rw [Nat.add_zero] at first
  simp only [memWord, first, outside 1 (by decide), outside 2 (by decide), outside 3 (by decide)]

theorem extractLsb'_append_bytes (v : Word) (k : Nat) :
    v.extractLsb' (8 * (2 * k + 1)) 8 ++ v.extractLsb' (8 * (2 * k)) 8 = v.extractLsb' (16 * k) 16 := by
  refine BitVec.eq_of_getLsbD_eq fun j hj => ?_
  rw [BitVec.getLsbD_append, BitVec.getLsbD_extractLsb', BitVec.getLsbD_extractLsb', BitVec.getLsbD_extractLsb',
    decide_eq_true hj, Bool.true_and]
  split
  case isTrue low => rw [decide_eq_true low, Bool.true_and, show 8 * (2 * k) + j = 16 * k + j by omega]
  case isFalse high =>
    rw [decide_eq_true (by omega), Bool.true_and, show 8 * (2 * k + 1) + (j - 8) = 16 * k + j by omega]

/-- The byte addresses of an aligned word do not wrap. -/
theorem toNat_add_of_aligned (a : Word) (ha : a.toNat % 4 = 0) (j : Nat) (hj : j < 4) :
    (a + BitVec.ofNat 32 j).toNat = a.toNat + j := by
  have bound := a.isLt
  rw [BitVec.toNat_add, BitVec.toNat_ofNat]
  omega

section
variable (cfg : Config) (reference : cfg.bus = .reference) (a v : Word) (c : BusContents)
  (accepted : busAccepts cfg a 4 = true)
  (held : ∀ k, k < 4 → cellGet (a.toNat + k) c.mem = some (v.extractLsb' (8 * k) 8))
include reference accepted held

theorem read8_of_held (j : Nat) (hj : j < 4) :
    (busOf cfg).read8 (a + BitVec.ofNat 32 j) c = .value (v.extractLsb' (8 * j) 8, c) := by
  obtain ⟨aligned, mapped⟩ := (busAccepts_iff cfg a 4).1 accepted
  have address := toNat_add_of_aligned a aligned j hj
  have accepts : busAccepts cfg (a + BitVec.ofNat 32 j) 1 = true := by
    refine (busAccepts_iff cfg _ 1).2 ⟨Nat.mod_one _, fun k hk => ?_⟩
    obtain rfl : k = 0 := by omega
    rw [address]
    exact mapped j hj
  have answer := (referenceRead_eq_value _ _ c.mem c.mem _).2 ⟨accepts, address ▸ held j hj, rfl⟩
  rw [busOf_reference _ reference]
  exact congrArg (mapAnswer _) answer

theorem read16_of_held (j : Nat) (hj : j < 2) :
    (busOf cfg).read16 (a + BitVec.ofNat 32 (2 * j)) c = .value (v.extractLsb' (16 * j) 16, c) := by
  obtain ⟨aligned, mapped⟩ := (busAccepts_iff cfg a 4).1 accepted
  have address := toNat_add_of_aligned a aligned (2 * j) (by omega)
  have accepts : busAccepts cfg (a + BitVec.ofNat 32 (2 * j)) 2 = true := by
    refine (busAccepts_iff cfg _ 2).2 ⟨by omega, fun k hk => ?_⟩
    rw [address, Nat.add_assoc]
    exact mapped (2 * j + k) (by omega)
  have half : memHalf c.mem (a + BitVec.ofNat 32 (2 * j)).toNat = some (v.extractLsb' (16 * j) 16) := by
    rw [address, memHalf, held (2 * j) (by omega), Nat.add_assoc, held (2 * j + 1) (by omega)]
    exact congrArg some (extractLsb'_append_bytes v j)
  have answer := (referenceRead_eq_value _ _ c.mem c.mem _).2 ⟨accepts, half, rfl⟩
  rw [busOf_reference _ reference]
  exact congrArg (mapAnswer _) answer

end

/-- Settles O33: after the write memory holds the word's bytes at its address and the old ones elsewhere, and two
different aligned words do not overlap. -/
theorem wordReadAfterWordWrite : Obligations.WordReadAfterWordWrite := by
  intro a v b k s t reference write
  obtain ⟨accepted, rfl⟩ := (memWrite_reference_eq_ok s.cfg reference a v s t).1 write
  obtain ⟨aligned, -⟩ := (busAccepts_iff s.cfg a 4).1 accepted
  have held := holdsWord_memSetWord s a v
  refine ⟨?same, fun ne x => ?other, read8_of_held s.cfg reference a v _ accepted held,
    read16_of_held s.cfg reference a v _ accepted held, fun x u read => ?noEffect⟩
  case same =>
    exact (memRead_reference_eq_ok s.cfg reference k a v _ _).2 ⟨accepted, memWord_memSetWord_same s a v, rfl⟩
  case other =>
    rw [memRead_reference_eq_ok s.cfg reference, memRead_reference_eq_ok s.cfg reference]
    refine and_congr_right fun accepts => ?_
    obtain ⟨aligned', -⟩ := (busAccepts_iff s.cfg b 4).1 accepts
    rw [memWord_memSetWord_of_ne s.mem a b v aligned aligned' ne]
    simp only [and_true]
  case noEffect => exact ((memRead_reference_eq_ok s.cfg reference k b x s u).1 read).2.2

/-- Settles O34: the store leaves the word in memory, and the writeback leaves memory and the parameters. -/
theorem storedWordIsFetched : Obligations.StoredWordIsFetched := by
  intro ix c up rn rd off s t m reference passed mode ran u
  rw [exec_store] at ran
  rcases storeWord_eq_next _ _ _ _ _ _ _ _ _ ran with ⟨failed, -⟩ | ⟨-, m', w, mode', write, written⟩
  · exact nomatch failed.symm.trans passed
  · obtain rfl : m' = m := Option.some.inj (mode'.symm.trans mode)
    obtain ⟨accepted, rfl⟩ := (memWrite_reference_eq_ok s.cfg reference _ _ _ _).1 write
    have cfg : u.cfg = s.cfg := by simp [u, written]
    have mem : u.mem = memSetWord s.mem (accessAddress ix (s.readReg m' rn) up off).toNat (s.readReg m' rd) := by
      simp [u, written]
    refine (memRead_reference_eq_ok u.cfg (by rw [cfg, reference]) .fetch _ _ u u).2 ⟨by rwa [cfg], ?_, rfl⟩
    rw [mem]
    exact memWord_memSetWord_same s _ _

end Sys2Proof.LoadStore
